-- ==== Sys2Proof/Word.lean ====
section
/-!
DEFINITION. The two word widths of BKP-SYNC: the 32-bit data word (00_scope.md R9) and the 40-bit
command word (30_encoding.md R100). Bit 0 is the least significant bit of each (R9).
-/

namespace Sys2Proof

/-- A 32-bit word: every register, bus value and numeric operand (00_scope.md R8, R9). -/
abbrev Word := BitVec 32

/-- A 40-bit command word (30_encoding.md R100). -/
abbrev CommandWord := BitVec 40

end Sys2Proof
end

