-- ==== Sys2Proof/Syntax.lean ====
section
/-!
DEFINITION. The fourteen operations of BKP-SYNC and their operand types (30_encoding.md R101 to
R106; spec/opcode_table.json). One constructor of `Instr` per row of the table.
-/

namespace Sys2Proof

/-- The three events: overflow, alarm, second-tick (00_scope.md R12). -/
inductive Event where
  | ow
  | alr
  | sec
  deriving DecidableEq, Repr, Inhabited

/-- One bit per event: a set of events (30_encoding.md R104), the flags `FLG` or the enables `IE`
(10_state.md R28). -/
structure Events where
  ow  : Bool
  alr : Bool
  sec : Bool
  deriving DecidableEq, Repr, Inhabited

/-- The flag selector of `GetFlag` (30_encoding.md R105). -/
inductive Flag where
  | wec
  | event (e : Event)
  deriving DecidableEq, Repr, Inhabited

/-- The operations (30_encoding.md R106). A numeric operand is the whole 32-bit `arg`, in range or
not (R102); a boolean operand is `en` (R103). -/
inductive Instr where
  /-- 40_bulk_reset.md R130 -/
  | reset
  /-- 41_config_field_ops.md R140; `arg` is a clock-source code -/
  | setClockSource (arg : Word)
  /-- 41_config_field_ops.md R142 -/
  | setEnabled (en : Bool)
  /-- 41_config_field_ops.md R143 -/
  | setCalibration (arg : Word)
  /-- 41_config_field_ops.md R144 -/
  | setReset (en : Bool)
  /-- 43_sync_status_ops.md R180 -/
  | setInterrupts (set : Events) (en : Bool)
  /-- 42_rtc_value_ops.md R160 -/
  | getCounter
  /-- 42_rtc_value_ops.md R161 -/
  | setCounter (arg : Word)
  /-- 42_rtc_value_ops.md R162 -/
  | setAlarm (arg : Word)
  /-- 42_rtc_value_ops.md R163 -/
  | getDivider
  /-- 42_rtc_value_ops.md R164 -/
  | setPrescaler (arg : Word)
  /-- 43_sync_status_ops.md R181 -/
  | waitForUpdate
  /-- 43_sync_status_ops.md R182 -/
  | getFlag (flag : Flag)
  /-- 43_sync_status_ops.md R183 -/
  | clearFlags (set : Events)
  deriving DecidableEq, Repr, Inhabited

end Sys2Proof
end

