-- ==== Sys2Proof/Config.lean ====
section
/-!
DEFINITION. What the spec leaves to the platform and to the environment: the configuration record
`Cfg` (00_scope.md R5, R6), the data the agents' steps carry (00_scope.md R11), and the free values
(`draw(W)`, 00_scope.md R10) as opaque constants, of which nothing can be proved.
-/

namespace Sys2Proof

/-- The four clock sources (00_scope.md R8). -/
inductive Source where
  | lsi
  | lse
  | hsi
  | hse
  deriving DecidableEq, Repr, Inhabited

/-- `PENDING_READ`: what a read of a synchronized register returns while its write is pending
(00_scope.md R6, 20_memory.md R68). -/
inductive PendingRead where
  | old
  | new
  | either
  deriving DecidableEq, Repr, Inhabited

/-- The configuration record `Cfg`, field by field the table of 00_scope.md R6. -/
structure Cfg where
  /-- `BASE` -/
  base : BitVec 32
  /-- `IDX_BKP(k)` -/
  idxBkp : Vector Nat 14
  /-- `IDX_CTRL` -/
  idxCtrl : Nat
  /-- `IDX_CFG` -/
  idxCfg : Nat
  /-- `IDX_CNT` -/
  idxCnt : Nat
  /-- `IDX_DIV` -/
  idxDiv : Nat
  /-- `IDX_PRL` -/
  idxPrl : Nat
  /-- `IDX_ALRM` -/
  idxAlrm : Nat
  /-- `IDX_CS` -/
  idxCs : Nat
  /-- `SRC_LSB` -/
  srcLsb : Nat
  /-- `SRC_W` -/
  srcW : Nat
  /-- `SRC_CODE(LSI)` -/
  codeLsi : Word
  /-- `SRC_CODE(LSE)` -/
  codeLse : Word
  /-- `SRC_CODE(HSI)` -/
  codeHsi : Word
  /-- `SRC_CODE(HSE)` -/
  codeHse : Word
  /-- `CAL_LSB` -/
  calLsb : Nat
  /-- `EN_BIT` -/
  enBit : Nat
  /-- `RST_BIT` -/
  rstBit : Nat
  /-- `F_OW` -/
  fOw : Nat
  /-- `F_ALR` -/
  fAlr : Nat
  /-- `F_SEC` -/
  fSec : Nat
  /-- `IE_OW` -/
  ieOw : Nat
  /-- `IE_ALR` -/
  ieAlr : Nat
  /-- `IE_SEC` -/
  ieSec : Nat
  /-- `WEC_BIT` -/
  wecBit : Nat
  /-- `WEC_LEVEL`, true for 1 -/
  wecLevel : Bool
  /-- `DOMAIN_ON` -/
  domainOn : Word
  /-- `DOMAIN_OFF_KEEP` -/
  domainOffKeep : Word
  /-- `RESET_CFG` -/
  resetCfg : Word
  /-- `PENDING_READ` -/
  pendingRead : PendingRead
  deriving DecidableEq, Repr, Inhabited

/-- The synchronized registers, `SYNCED` (00_scope.md R12). -/
inductive Synced where
  | cnt
  | alrm
  | prl
  deriving DecidableEq, Repr, Inhabited

/-- A write the bus has accepted and the RTC domain has not committed: the content of the pending
slot `P` (10_state.md R29). -/
structure Pending where
  reg : Synced
  val : Word
  deriving DecidableEq, Repr, Inhabited

/-- A response: 2-bit status and 32-bit data (30_encoding.md R110). -/
structure Response where
  status : BitVec 2
  data : Word
  deriving DecidableEq, Repr, Inhabited

/-- What one step of `RtcCore` does (20_memory.md R72): a new counter value or none, a new divider
value or none, and the event flags it raises. -/
structure RtcMove where
  cnt : Option Word
  div : Option Word
  raised : Events
  deriving DecidableEq, Repr, Inhabited

/-- Which agent steps (00_scope.md R11). Presenting a command is part of the controller's acceptance
step (10_state.md R40); the host's other two moves are its own (10_state.md R44 b, c). -/
inductive Move where
  /-- the controller accepts a presented command or performs a micro-step -/
  | controller
  /-- the write synchronizer -/
  | sync
  /-- the RTC counting hardware -/
  | rtcCore (m : RtcMove)
  /-- the host reads `RESP` -/
  | readResponse
  /-- the host asserts the main-domain hardware reset -/
  | hardwareReset
  deriving DecidableEq, Repr, Inhabited

/-- The inputs of one step: the agent that steps and the input `rtc_clk_running` (10_state.md
R35). -/
structure Input where
  move : Move
  clk : Bool
  deriving DecidableEq, Repr, Inhabited

/-- The draws of a protocol violation (20_memory.md R66). -/
structure Corruption where
  cnt : Word
  alrm : Word
  prl : Word
  pending : Pending
  deriving DecidableEq, Repr, Inhabited

/-- The controller latches that a hardware reset leaves unspecified (70_reset_and_hazards.md
R230). -/
structure Latches where
  cmd : CommandWord
  a : Word
  b : Bool
  t : Word
  upc : BitVec 5
  resp : Response
  deriving DecidableEq, Repr, Inhabited

/-- The register block, as a cold start leaves it unspecified (70_reset_and_hazards.md R231). -/
structure ColdBlock where
  w : Vector Word 16
  cnt : Word
  alrm : Word
  prl : Word
  div : Word
  flg : Events
  ie : Events
  pending : Option Pending
  deriving DecidableEq, Repr, Inhabited

/-- FREE VALUE (assumption log 5): the input of a step for which `State.inputs` names none. The
spec fixes no schedule (00_scope.md R11) and leaves `rtc_clk_running` free (10_state.md R35). -/
opaque Config.input : Nat → Input

/-- FREE VALUE (assumption log 13): what a protocol violation leaves (20_memory.md R66). -/
opaque Config.corruption : Nat → Corruption

/-- FREE VALUE (assumption log 15): with `PENDING_READ = either`, whether a read returns the pending
value (20_memory.md R68). -/
opaque Config.readsPending : Nat → Bool

/-- FREE VALUE (assumption log 14): the latches after a hardware reset (70_reset_and_hazards.md
R230). -/
opaque Config.latches : Nat → Latches

/-- FREE VALUE (assumption log 17): the register block after a cold start (70_reset_and_hazards.md
R231). -/
opaque Config.coldBlock : Nat → ColdBlock

end Sys2Proof
end

