-- ==== Sys2Proof/Machine/Operands.lean ====
section
/-!
DEFINITION. Operand forms and bit fields: the derived masks (00_scope.md R6), the field insert, set
and clear (41_config_field_ops.md R141), the clauses of a well-formed `Cfg` (00_scope.md R7) and the
range checks made when a command is accepted (60_exceptions.md R201).
-/

namespace Sys2Proof

/-- The word with a 1 at bit `p` alone, `1 << p`. -/
def bit (p : Nat) : Word := 1#32 <<< p

/-- The mask of a field of `w` bits at position `p`: `((1 << w) - 1) << p`
(41_config_field_ops.md R141). -/
def fieldMask (w p : Nat) : Word := ((1#32 <<< w) - 1#32) <<< p

/-- The insert `(t & ~m) | (a << p)` (41_config_field_ops.md R141). -/
def insertField (m : Word) (p : Nat) (t a : Word) : Word := (t &&& ~~~m) ||| (a <<< p)

/-- Set the bits of `m` in `t` when `on`, clear them otherwise (41_config_field_ops.md R141, R142,
R144). -/
def setOrClear (on : Bool) (m t : Word) : Word := if on then t ||| m else t &&& ~~~m

/-- Membership in a set of events. -/
def Events.has (s : Events) : Event → Bool
  | .ow => s.ow
  | .alr => s.alr
  | .sec => s.sec

/-- The empty set of events. -/
def Events.none : Events := ⟨false, false, false⟩

/-- All three events. -/
def Events.all : Events := ⟨true, true, true⟩

/-- The members of either set. -/
def Events.union (s r : Events) : Events := ⟨s.ow || r.ow, s.alr || r.alr, s.sec || r.sec⟩

/-- The members of `s` that are not in `r`. -/
def Events.minus (s r : Events) : Events := ⟨s.ow && !r.ow, s.alr && !r.alr, s.sec && !r.sec⟩

/-- `S` as the operand bits `arg[2:0]`: 0 overflow, 1 alarm, 2 second-tick (30_encoding.md R104). -/
def Events.toArg (s : Events) : Word :=
  (if s.ow then 1#32 else 0#32) ||| (if s.alr then 2#32 else 0#32)
    ||| (if s.sec then 4#32 else 0#32)

/-- The event set in `arg[2:0]` (30_encoding.md R104). -/
def Events.ofArg (arg : Word) : Events := ⟨arg.getLsbD 0, arg.getLsbD 1, arg.getLsbD 2⟩

/-- The flag selector as the operand bits `arg[1:0]` (30_encoding.md R105). -/
def Flag.toArg : Flag → Word
  | .wec => 0#32
  | .event .ow => 1#32
  | .event .alr => 2#32
  | .event .sec => 3#32

/-- The flag selector in `arg[1:0]` (30_encoding.md R105). -/
def Flag.ofArg (arg : Word) : Flag :=
  match arg.getLsbD 1, arg.getLsbD 0 with
  | false, false => .wec
  | false, true => .event .ow
  | true, false => .event .alr
  | true, true => .event .sec

/-- `SRC_MASK` (00_scope.md R6). -/
def Cfg.srcMask (c : Cfg) : Word := fieldMask c.srcW c.srcLsb

/-- `CAL_MASK = 0xFF << CAL_LSB` (00_scope.md R6). -/
def Cfg.calMask (c : Cfg) : Word := 0xFF#32 <<< c.calLsb

/-- `EN_MASK` (00_scope.md R6). -/
def Cfg.enMask (c : Cfg) : Word := bit c.enBit

/-- `RST_MASK` (00_scope.md R6). -/
def Cfg.rstMask (c : Cfg) : Word := bit c.rstBit

/-- `WEC_MASK` (00_scope.md R6). -/
def Cfg.wecMask (c : Cfg) : Word := bit c.wecBit

/-- `F_e`, the position of an event's flag in `RTC_CS` (00_scope.md R6). -/
def Cfg.flagBit (c : Cfg) : Event → Nat
  | .ow => c.fOw
  | .alr => c.fAlr
  | .sec => c.fSec

/-- `IE_e`, the position of an event's enable in `RTC_CS` (00_scope.md R6). -/
def Cfg.enableBit (c : Cfg) : Event → Nat
  | .ow => c.ieOw
  | .alr => c.ieAlr
  | .sec => c.ieSec

/-- `F(S)`, the OR of `1 << F_e` over the members of `S` (00_scope.md R6). -/
def Cfg.flagMask (c : Cfg) (s : Events) : Word :=
  (if s.ow then bit c.fOw else 0#32) ||| (if s.alr then bit c.fAlr else 0#32)
    ||| (if s.sec then bit c.fSec else 0#32)

/-- `IE(S)`, the OR of `1 << IE_e` over the members of `S` (00_scope.md R6). -/
def Cfg.enableMask (c : Cfg) (s : Events) : Word :=
  (if s.ow then bit c.ieOw else 0#32) ||| (if s.alr then bit c.ieAlr else 0#32)
    ||| (if s.sec then bit c.ieSec else 0#32)

/-- `F_ALL` (00_scope.md R6). -/
def Cfg.flagAll (c : Cfg) : Word := c.flagMask Events.all

/-- `SRC_CODE(s)` (00_scope.md R6). -/
def Cfg.srcCode (c : Cfg) : Source → Word
  | .lsi => c.codeLsi
  | .lse => c.codeLse
  | .hsi => c.codeHsi
  | .hse => c.codeHse

/-- `asserted(v)`: the bit at `WEC_BIT` is `WEC_LEVEL` (00_scope.md R10). -/
def Cfg.asserted (c : Cfg) (v : Word) : Bool := v.getLsbD c.wecBit == c.wecLevel

/-- 00_scope.md R7 a. -/
def Cfg.wfBase (c : Cfg) : Bool :=
  decide (c.base.toNat % 4 = 0) && decide (c.base.toNat + 4 * 0x14 + 3 ≤ 0xFFFFFFFF)

/-- 00_scope.md R7 b. -/
def Cfg.wfIndices (c : Cfg) : Bool :=
  decide (c.idxBkp = Vector.ofFn fun k => k.val)
    && decide (c.idxCtrl = 0x0E) && decide (c.idxCfg = 0x0F)
    && [c.idxCnt, c.idxDiv, c.idxPrl, c.idxAlrm, c.idxCs].all
        (fun i => decide (0x10 ≤ i) && decide (i ≤ 0x14))
    && decide [c.idxCnt, c.idxDiv, c.idxPrl, c.idxAlrm, c.idxCs].Nodup

/-- 00_scope.md R7 c. -/
def Cfg.wfPositions (c : Cfg) : Bool :=
  [c.srcLsb, c.calLsb, c.enBit, c.rstBit, c.fOw, c.fAlr, c.fSec, c.ieOw, c.ieAlr, c.ieSec,
      c.wecBit].all (fun p => decide (p ≤ 31))
    && decide (2 ≤ c.srcW) && decide (c.srcLsb + c.srcW ≤ 32) && decide (c.calLsb + 8 ≤ 32)

/-- 00_scope.md R7 d. -/
def Cfg.wfDisjoint (c : Cfg) : Bool :=
  decide ([c.srcMask, c.calMask, c.enMask, c.rstMask].Pairwise fun m n => m &&& n = 0#32)

/-- 00_scope.md R7 e. -/
def Cfg.wfStatusBits (c : Cfg) : Bool :=
  decide [c.fOw, c.fAlr, c.fSec, c.ieOw, c.ieAlr, c.ieSec, c.wecBit].Nodup

/-- 00_scope.md R7 f. -/
def Cfg.wfCodes (c : Cfg) : Bool :=
  decide [c.codeLsi, c.codeLse, c.codeHsi, c.codeHse].Nodup
    && [c.codeLsi, c.codeLse, c.codeHsi, c.codeHse].all
        (fun k => decide (k.toNat < 2 ^ c.srcW))

/-- 00_scope.md R7 g. -/
def Cfg.wfResetCfg (c : Cfg) : Bool :=
  decide ((c.resetCfg &&& c.srcMask) >>> c.srcLsb = c.codeLsi)
    && decide (c.resetCfg &&& c.enMask = 0#32)

/-- A well-formed `Cfg` (00_scope.md R7). -/
def Cfg.wf (c : Cfg) : Bool :=
  c.wfBase && c.wfIndices && c.wfPositions && c.wfDisjoint && c.wfStatusBits && c.wfCodes
    && c.wfResetCfg

/-- `precond(d)`: the range check made at acceptance (10_state.md R40, 60_exceptions.md R201). -/
def precond (c : Cfg) : Instr → Bool
  | .reset => true
  | .setClockSource arg =>
      arg == c.codeLsi || arg == c.codeLse || arg == c.codeHsi || arg == c.codeHse
  | .setEnabled _ => true
  | .setCalibration arg => decide (arg.toNat ≤ 255)
  | .setReset _ => true
  | .setInterrupts _ _ => true
  | .getCounter => true
  | .setCounter _ => true
  | .setAlarm _ => true
  | .getDivider => true
  | .setPrescaler arg => decide (arg.toNat ≤ 0xFFFFF)
  | .waitForUpdate => true
  | .getFlag _ => true
  | .clearFlags _ => true

end Sys2Proof
end

