-- ==== Sys2Proof/Decode.lean ====
section
/-!
DEFINITION. The command word: fields (30_encoding.md R100), the total decoder (R106 to R108) and the
encoder from the same table. Every bit position is the spec's own (92_eei_decisions.md D2, D3).
-/

namespace Sys2Proof

/-- Why a word is illegal (30_encoding.md R107). -/
inductive IllegalWord where
  /-- `op` is 0xE or 0xF -/
  | reservedOp
  /-- `rsv` is not 0 -/
  | reservedBits
  /-- `en` is 1 in an operation without a boolean operand -/
  | strayEn
  /-- an `arg` bit is set that the row's mask fixes to 0 -/
  | strayArg
  deriving DecidableEq, Repr, Inhabited

/-- The decoder's answer on any 40 bits: an operation, or illegal with its reason. -/
inductive Decoded where
  | command (i : Instr)
  | illegal (why : IllegalWord)
  deriving DecidableEq, Repr, Inhabited

/-- `op`, bits 39:36. -/
def opField (c : CommandWord) : BitVec 4 := c.extractLsb' 36 4

/-- `rsv`, bits 35:33. -/
def rsvField (c : CommandWord) : BitVec 3 := c.extractLsb' 33 3

/-- `en`, bit 32. -/
def enField (c : CommandWord) : Bool := c.getLsbD 32

/-- `arg`, bits 31:0. -/
def argField (c : CommandWord) : Word := c.extractLsb' 0 32

/-- An operation with no operand: `en` and `arg` must be 0. -/
def decodePlain (en : Bool) (arg : Word) (i : Instr) : Decoded :=
  if en then .illegal .strayEn else if arg = 0#32 then .command i else .illegal .strayArg

/-- An operation whose operand is the whole `arg` (R102): `en` must be 0. -/
def decodeArg (en : Bool) (i : Instr) : Decoded :=
  if en then .illegal .strayEn else .command i

/-- An operation whose operand is `en` alone (R103): `arg` must be 0. -/
def decodeEn (arg : Word) (i : Instr) : Decoded :=
  if arg = 0#32 then .command i else .illegal .strayArg

/-- An operation whose `arg` is an operand of `n` low bits: the others must be 0 (R104, R105). -/
def decodeLow (n : Nat) (arg : Word) (i : Instr) : Decoded :=
  if arg >>> n = 0#32 then .command i else .illegal .strayArg

/-- The opcode map (30_encoding.md R106) over the fields of a word whose `rsv` is 0. -/
def decodeOp (op : BitVec 4) (en : Bool) (arg : Word) : Decoded :=
  match op.toNat with
  | 0x0 => decodePlain en arg .reset
  | 0x1 => decodeArg en (.setClockSource arg)
  | 0x2 => decodeEn arg (.setEnabled en)
  | 0x3 => decodeArg en (.setCalibration arg)
  | 0x4 => decodeEn arg (.setReset en)
  | 0x5 => decodeLow 3 arg (.setInterrupts (Events.ofArg arg) en)
  | 0x6 => decodePlain en arg .getCounter
  | 0x7 => decodeArg en (.setCounter arg)
  | 0x8 => decodeArg en (.setAlarm arg)
  | 0x9 => decodePlain en arg .getDivider
  | 0xA => decodeArg en (.setPrescaler arg)
  | 0xB => decodePlain en arg .waitForUpdate
  | 0xC => if en then .illegal .strayEn else decodeLow 2 arg (.getFlag (Flag.ofArg arg))
  | 0xD => if en then .illegal .strayEn else decodeLow 3 arg (.clearFlags (Events.ofArg arg))
  | _ => .illegal .reservedOp

/-- `decode`, total on the 2^40 words (30_encoding.md R107). -/
def decode (c : CommandWord) : Decoded :=
  if rsvField c = 0#3 then decodeOp (opField c) (enField c) (argField c)
  else .illegal .reservedBits

/-- The instruction the decoder reads from a row of spec/opcode_table.json laid out as `nbits` bits
of `w`, the bits above them 0 (the table's words are 40 bits, R106). -/
def decodeTableWord (nbits w : Nat) : Option Instr :=
  match decode (BitVec.ofNat 40 (w % 2 ^ nbits)) with
  | .command i => some i
  | .illegal _ => none

/-- The command word with the given fields and `rsv` 0 (30_encoding.md R100). -/
def packWord (op : BitVec 4) (en : Bool) (arg : Word) : CommandWord :=
  op ++ 0#3 ++ BitVec.ofBool en ++ arg

/-- `op` of each operation (30_encoding.md R106). -/
def opcodeOf : Instr → BitVec 4
  | .reset => 0x0#4
  | .setClockSource _ => 0x1#4
  | .setEnabled _ => 0x2#4
  | .setCalibration _ => 0x3#4
  | .setReset _ => 0x4#4
  | .setInterrupts _ _ => 0x5#4
  | .getCounter => 0x6#4
  | .setCounter _ => 0x7#4
  | .setAlarm _ => 0x8#4
  | .getDivider => 0x9#4
  | .setPrescaler _ => 0xA#4
  | .waitForUpdate => 0xB#4
  | .getFlag _ => 0xC#4
  | .clearFlags _ => 0xD#4

/-- The boolean operand, 0 in an operation that has none (30_encoding.md R103, R106). -/
def enOf : Instr → Bool
  | .reset => false
  | .setClockSource _ => false
  | .setEnabled en => en
  | .setCalibration _ => false
  | .setReset en => en
  | .setInterrupts _ en => en
  | .getCounter => false
  | .setCounter _ => false
  | .setAlarm _ => false
  | .getDivider => false
  | .setPrescaler _ => false
  | .waitForUpdate => false
  | .getFlag _ => false
  | .clearFlags _ => false

/-- The 32-bit operand, 0 in an operation that has none (30_encoding.md R102, R104 to R106). -/
def argOf : Instr → Word
  | .reset => 0#32
  | .setClockSource arg => arg
  | .setEnabled _ => 0#32
  | .setCalibration arg => arg
  | .setReset _ => 0#32
  | .setInterrupts set _ => set.toArg
  | .getCounter => 0#32
  | .setCounter arg => arg
  | .setAlarm arg => arg
  | .getDivider => 0#32
  | .setPrescaler arg => arg
  | .waitForUpdate => 0#32
  | .getFlag flag => flag.toArg
  | .clearFlags set => set.toArg

/-- The command word of an instruction (30_encoding.md R106). -/
def encode (i : Instr) : CommandWord := packWord (opcodeOf i) (enOf i) (argOf i)

/-- A row of the opcode map: a word `c` selects it when `c & mask = value` (30_encoding.md R106). -/
structure OpcodeRow where
  value : CommandWord
  mask : CommandWord
  deriving DecidableEq, Repr

/-- The row of spec/opcode_table.json an instruction belongs to, its `match` and `mask` as the table
writes them. -/
def tableRow : Instr → OpcodeRow
  | .reset => ⟨0x0000000000#40, 0xFFFFFFFFFF#40⟩
  | .setClockSource _ => ⟨0x1000000000#40, 0xFF00000000#40⟩
  | .setEnabled _ => ⟨0x2000000000#40, 0xFEFFFFFFFF#40⟩
  | .setCalibration _ => ⟨0x3000000000#40, 0xFF00000000#40⟩
  | .setReset _ => ⟨0x4000000000#40, 0xFEFFFFFFFF#40⟩
  | .setInterrupts _ _ => ⟨0x5000000000#40, 0xFEFFFFFFF8#40⟩
  | .getCounter => ⟨0x6000000000#40, 0xFFFFFFFFFF#40⟩
  | .setCounter _ => ⟨0x7000000000#40, 0xFF00000000#40⟩
  | .setAlarm _ => ⟨0x8000000000#40, 0xFF00000000#40⟩
  | .getDivider => ⟨0x9000000000#40, 0xFFFFFFFFFF#40⟩
  | .setPrescaler _ => ⟨0xA000000000#40, 0xFF00000000#40⟩
  | .waitForUpdate => ⟨0xB000000000#40, 0xFFFFFFFFFF#40⟩
  | .getFlag _ => ⟨0xC000000000#40, 0xFFFFFFFFFC#40⟩
  | .clearFlags _ => ⟨0xD000000000#40, 0xFFFFFFFFF8#40⟩

/-- The fourteen rows in the table's order. -/
def opcodeRows : List OpcodeRow :=
  [.reset, .setClockSource 0#32, .setEnabled false, .setCalibration 0#32, .setReset false,
    .setInterrupts ⟨false, false, false⟩ false, .getCounter, .setCounter 0#32, .setAlarm 0#32,
    .getDivider, .setPrescaler 0#32, .waitForUpdate, .getFlag .wec,
    .clearFlags ⟨false, false, false⟩].map tableRow

/-- Whether a word selects a row (30_encoding.md R106). -/
def OpcodeRow.selects (r : OpcodeRow) (c : CommandWord) : Bool := c &&& r.mask == r.value

end Sys2Proof
end

