-- ==== Sys2Proof/Machine/Platform.lean ====
section
/-!
DEFINITION. The platform's register map in the state after reset: the column "default" of the table
of 00_scope.md R6. The spec marks these values as general knowledge; no meaning rests on them
(assumption log 2).
-/

namespace Sys2Proof.Machine

/-- The default `Cfg` (00_scope.md R6, column "default"). -/
def defaultCfg : Cfg where
  base := 0x400D8000#32
  idxBkp := Vector.ofFn fun k => k.val
  idxCtrl := 0x0E
  idxCfg := 0x0F
  idxCnt := 0x10
  idxDiv := 0x11
  idxPrl := 0x12
  idxAlrm := 0x13
  idxCs := 0x14
  srcLsb := 2
  srcW := 2
  codeLsi := 0#32
  codeLse := 1#32
  codeHsi := 2#32
  codeHse := 3#32
  calLsb := 5
  enBit := 4
  rstBit := 31
  fOw := 0
  fAlr := 2
  fSec := 1
  ieOw := 3
  ieAlr := 5
  ieSec := 4
  wecBit := 6
  wecLevel := true
  domainOn := 0x00000800#32
  domainOffKeep := 0x7FFF8FC0#32
  resetCfg := 0x00008000#32
  pendingRead := .either

end Sys2Proof.Machine
end

