-- ==== Sys2Proof/Machine/State.lean ====
section
/-!
DEFINITION. The state of BKP-SYNC as plain data: the controller latches (10_state.md R31), the
register block (R20 to R30), the configuration and the environment's parameters (R34), the reasons a
step can stop, and the state after reset (R36).
-/

namespace Sys2Proof.Machine

/-- `mode` (10_state.md R31). -/
inductive Mode where
  | idle
  | busy
  | halted
  deriving DecidableEq, Repr, Inhabited

/-- Reasons the machine stops. None is raised in a state a run reaches; each is safe. The spec's own
faults (60_exceptions.md R200) are no stop: they are next states in mode HALTED. -/
inductive Fault where
  /-- Raised by `exec` in mode HALTED, where the controller has no step (10_state.md R43). `step`
  never asks for it. Safe. -/
  | halted
  /-- Raised by a meaning in mode BUSY when the operation has no micro-step numbered `upc`
  (10_state.md R37 c excludes it). Safe. -/
  | noMicroStep
  /-- Raised by `step` in mode BUSY when `CMD` is no legal command (10_state.md R37 c excludes it).
  Safe. -/
  | noCommand
  deriving DecidableEq, Repr

/-- Reasons the model gives no meaning. Each is safe. -/
inductive Refusal where
  /-- Raised by `exec` for an instruction without a meaning, by name. Safe. -/
  | notModelled (mnemonic : String)
  /-- Raised by `exec` and `step` on a configuration that is not well-formed: "the model refuses any
  other `Cfg`" (00_scope.md R7). Safe. -/
  | illFormedCfg
  /-- Raised by a bus access that is not one aligned 32-bit word of the register block (20_memory.md
  R61). No operation makes one. Safe. -/
  | badAccess
  deriving DecidableEq, Repr

/-- The state of the machine. -/
structure State where
  /-- the configuration record (00_scope.md R6), changed by no step -/
  cfg : Cfg
  /-- `mode` (10_state.md R31) -/
  mode : Mode
  /-- `CMD`, the command being executed (10_state.md R31) -/
  cmd : CommandWord
  /-- `A`, the command's `arg` (10_state.md R31) -/
  a : Word
  /-- `B`, the command's `en` (10_state.md R31) -/
  b : Bool
  /-- `T`, the word last read from the bus (10_state.md R31) -/
  t : Word
  /-- `upc`, the micro-step counter (10_state.md R32) -/
  upc : BitVec 5
  /-- `RESP`, the last response (10_state.md R31) -/
  resp : Response
  /-- whether a response is outstanding (10_state.md R36; assumption log 18) -/
  respOutstanding : Bool
  /-- `W[0x00..0x0F]`, the plain words (10_state.md R20 to R23) -/
  w : Vector Word 16
  /-- `C[CNT]` (10_state.md R24) -/
  cnt : Word
  /-- `C[ALRM]` (10_state.md R25) -/
  alrm : Word
  /-- `C[PRL]` (10_state.md R26) -/
  prl : Word
  /-- `DIV` (10_state.md R27) -/
  div : Word
  /-- `FLG[OW, ALR, SEC]` (10_state.md R28) -/
  flg : Events
  /-- `IE[OW, ALR, SEC]` (10_state.md R28) -/
  ie : Events
  /-- `P`, the pending slot (10_state.md R29) -/
  pending : Option Pending
  /-- `viol`, the ghost violation mark (10_state.md R30) -/
  viol : Bool
  /-- the number of the next draw (assumption log 34) -/
  fresh : Nat
  /-- the words the host has yet to present (10_state.md R44; assumption log 7) -/
  program : List CommandWord
  /-- the inputs of the coming steps (00_scope.md R11, 10_state.md R35; assumption log 5) -/
  inputs : List Input
  deriving DecidableEq, Repr

/-- What a meaning answers. -/
abbrev Result := Host.Outcome State Fault Refusal

/-- `REG_0E`, the control word (10_state.md R22). -/
abbrev State.reg0E (s : State) : Word := s.w[0x0E]

/-- `REG_0F`, the RTC-configuration word (10_state.md R23). -/
abbrev State.reg0F (s : State) : Word := s.w[0x0F]

/-- The machine after a backup-domain cold start and the hardware reset it implies (10_state.md
R36): `mode` IDLE, no response outstanding, `viol` 0. R36 leaves every other register unspecified;
the model names 0 and an empty pending slot (DESIGN CHOICE, unsafe: assumption log 3, 4). -/
def State.reset : State where
  cfg := defaultCfg
  mode := .idle
  cmd := 0#40
  a := 0#32
  b := false
  t := 0#32
  upc := 0#5
  resp := ⟨0#2, 0#32⟩
  respOutstanding := false
  w := Vector.replicate 16 0#32
  cnt := 0#32
  alrm := 0#32
  prl := 0#32
  div := 0#32
  flg := ⟨false, false, false⟩
  ie := ⟨false, false, false⟩
  pending := none
  viol := false
  fresh := 0
  program := []
  inputs := []

end Sys2Proof.Machine
end

