-- ==== Sys2Proof/Machine/Flags.lean ====
section
/-!
DEFINITION. The control/status word `RTC_CS` (10_state.md R28): what a read composes (20_memory.md
R70), what a write does field by field (R71), write-enable-complete (10_state.md R29), the flag that
`GetFlag` answers (43_sync_status_ops.md R182) and the interrupt request line (10_state.md R33).
-/

namespace Sys2Proof.Machine

/-- WEC is asserted exactly when no write is pending (10_state.md R29). -/
def wecAsserted (s : State) : Bool := s.pending.isNone

/-- The bit read at `WEC_BIT` (10_state.md R29). -/
def wecValue (s : State) : Bool := if wecAsserted s then s.cfg.wecLevel else !s.cfg.wecLevel

/-- `RegRead(IDX_CS)` (20_memory.md R70): the seven named bits, every other bit 0. -/
def readCs (s : State) : Word :=
  s.cfg.flagMask s.flg ||| s.cfg.enableMask s.ie ||| (if wecValue s then s.cfg.wecMask else 0#32)

/-- The event flags a word written to `RTC_CS` clears: those with a 1 at `F_e` (20_memory.md R71). -/
def clearedBy (c : Cfg) (v : Word) : Events :=
  ⟨v.getLsbD c.fOw, v.getLsbD c.fAlr, v.getLsbD c.fSec⟩

/-- The enables a word written to `RTC_CS` gives: its bits at `IE_e` (20_memory.md R71). -/
def enabledBy (c : Cfg) (v : Word) : Events :=
  ⟨v.getLsbD c.ieOw, v.getLsbD c.ieAlr, v.getLsbD c.ieSec⟩

/-- `RegWrite(IDX_CS, v)` (20_memory.md R71): write-1-to-clear flags, plain enables, every other bit
ignored. -/
def writeCs (v : Word) (s : State) : State :=
  { s with flg := s.flg.minus (clearedBy s.cfg v), ie := enabledBy s.cfg v }

/-- The boolean `GetFlag` computes from the word it read (43_sync_status_ops.md R182). -/
def flagIn (c : Cfg) (v : Word) : Flag → Bool
  | .wec => c.asserted v
  | .event e => v.getLsbD (c.flagBit e)

/-- The word `SetInterrupts` writes: enables of `S` set or cleared, 0 at every flag position
(43_sync_status_ops.md R180). -/
def interruptsWord (c : Cfg) (set : Events) (on : Bool) (t : Word) : Word :=
  setOrClear on (c.enableMask set) t &&& ~~~c.flagAll

/-- The word `ClearFlags` writes: 1 at the flags of `S`, 0 at the other flags
(43_sync_status_ops.md R183). -/
def clearWord (c : Cfg) (set : Events) (t : Word) : Word :=
  (t &&& ~~~c.flagAll) ||| c.flagMask set

/-- The interrupt request line: some event's flag and enable are both 1 (10_state.md R33). -/
def irq (s : State) : Bool :=
  (s.flg.ow && s.ie.ow) || (s.flg.alr && s.ie.alr) || (s.flg.sec && s.ie.sec)

end Sys2Proof.Machine
end

