-- ==== Sys2Proof/Machine/Ops.lean ====
section
/-!
DEFINITION. The operations the meanings share: the register bus (20_memory.md R61 to R71), the
controller's micro-steps, acceptance, response and halt (10_state.md R40 to R43, 60_exceptions.md
R206), and the steps of the other agents (20_memory.md R67, R72; 70_reset_and_hazards.md R230, R231).
-/

namespace Sys2Proof.Machine

/-- A register of the block by kind (10_state.md R20). -/
inductive Reg where
  | plain (k : Fin 16)
  | synced (x : Synced)
  | div
  | cs
  deriving DecidableEq, Repr

/-- The register the map puts at a word index, if the index is in the block (10_state.md R20,
20_memory.md R61). -/
def regAt (c : Cfg) (i : Nat) : Option Reg :=
  if h : i < 16 then some (.plain ⟨i, h⟩)
  else if i = c.idxCnt then some (.synced .cnt)
  else if i = c.idxDiv then some .div
  else if i = c.idxPrl then some (.synced .prl)
  else if i = c.idxAlrm then some (.synced .alrm)
  else if i = c.idxCs then some .cs
  else none

/-- The word index of a synchronized register. -/
def syncedIdx (c : Cfg) : Synced → Nat
  | .cnt => c.idxCnt
  | .alrm => c.idxAlrm
  | .prl => c.idxPrl

/-- `C[X]`, the committed value (00_scope.md R12). -/
def committed (s : State) : Synced → Word
  | .cnt => s.cnt
  | .alrm => s.alrm
  | .prl => s.prl

/-- `C[X] <- v`. -/
def setCommitted (x : Synced) (v : Word) (s : State) : State :=
  match x with
  | .cnt => { s with cnt := v }
  | .alrm => { s with alrm := v }
  | .prl => { s with prl := v }

/-- The draw numbered `fresh` is used up (assumption log 34). -/
def useDraw (s : State) : State := { s with fresh := s.fresh + 1 }

/-- A read of a synchronized register (20_memory.md R68). Only with `PENDING_READ = either` and a
pending write to that register is a draw used. -/
def readSynced (x : Synced) (s : State) : Word × State :=
  match s.pending with
  | none => (committed s x, s)
  | some p =>
    if p.reg = x then
      match s.cfg.pendingRead with
      | .old => (committed s x, s)
      | .new => (p.val, s)
      | .either => (if Config.readsPending s.fresh then p.val else committed s x, useDraw s)
    else (committed s x, s)

/-- `RegRead` of a register (20_memory.md R63). -/
def readReg (r : Reg) (s : State) : Word × State :=
  match r with
  | .plain k => (s.w[k], s)
  | .synced x => readSynced x s
  | .div => (s.div, s)
  | .cs => (readCs s, s)

/-- A write to a synchronized register while a write is pending: the protocol violation
(20_memory.md R66; assumption log 13). -/
def violate (s : State) : State :=
  let d := Config.corruption s.fresh
  { s with
    viol := true
    cnt := d.cnt
    alrm := d.alrm
    prl := d.prl
    pending := some d.pending
    fresh := s.fresh + 1 }

/-- A write to a synchronized register: accepted into the empty pending slot (20_memory.md R65), a
protocol violation otherwise (R66). -/
def writeSynced (x : Synced) (v : Word) (s : State) : State :=
  match s.pending with
  | none => { s with pending := some ⟨x, v⟩ }
  | some _ => violate s

/-- `W[k] <- v` (20_memory.md R64). -/
def setPlain (k : Fin 16) (v : Word) (s : State) : State := { s with w := s.w.set k v }

/-- `RegWrite` of a register (20_memory.md R64 to R66, R69, R71). -/
def writeReg (r : Reg) (v : Word) (s : State) : State :=
  match r with
  | .plain k => setPlain k v s
  | .synced x => writeSynced x v s
  | .div => s
  | .cs => writeCs v s

/-- `RegRead(i)` by word index (20_memory.md R61, R63). -/
def regRead (i : Nat) (s : State) : Host.Outcome (Word × State) Fault Refusal :=
  match regAt s.cfg i with
  | some r => .next (readReg r s)
  | none => .refused .badAccess

/-- `RegWrite(i, v)` by word index (20_memory.md R61, R64 to R71). -/
def regWrite (i : Nat) (v : Word) (s : State) : Result :=
  match regAt s.cfg i with
  | some r => .next (writeReg r v s)
  | none => .refused .badAccess

/-- The word index of a bus access of `n` bytes at a byte address, if it is one aligned word of the
block (20_memory.md R60, R61). -/
def busIndex (c : Cfg) (addr : BitVec 32) (n : Nat) : Option Nat :=
  if n = 4 ∧ addr.toNat % 4 = 0 ∧ c.base.toNat ≤ addr.toNat
      ∧ (addr.toNat - c.base.toNat) / 4 ≤ 0x14
  then some ((addr.toNat - c.base.toNat) / 4)
  else none

/-- `MemRead(addr, n)` (00_scope.md R10, 20_memory.md R61). -/
def memRead (addr : BitVec 32) (n : Nat) (s : State) :
    Host.Outcome (Word × State) Fault Refusal :=
  match busIndex s.cfg addr n with
  | some i => regRead i s
  | none => .refused .badAccess

/-- `MemWrite(addr, n, v)` (00_scope.md R10, 20_memory.md R61). -/
def memWrite (addr : BitVec 32) (n : Nat) (v : Word) (s : State) : Result :=
  match busIndex s.cfg addr n with
  | some i => regWrite i v s
  | none => .refused .badAccess

/-- The byte address of a word index, `BASE + 4*i` (20_memory.md R60). -/
def byteAddress (c : Cfg) (i : Nat) : BitVec 32 := c.base + BitVec.ofNat 32 (4 * i)

/-- Go on with `f` in the next state, if there is one. -/
def andThen (o : Result) (f : State → State) : Result :=
  match o with
  | .next s => .next (f s)
  | .fault r => .fault r
  | .refused r => .refused r

/-- `upc <- upc + 1` (10_state.md R41; assumption log 11). -/
def advance (s : State) : State := { s with upc := s.upc + 1#5 }

/-- `T <- v`. -/
def setT (v : Word) (s : State) : State := { s with t := v }

/-- `T <- RegRead(i)` (10_state.md R41). -/
def loadT (i : Nat) (s : State) : Result :=
  match regRead i s with
  | .next vs => .next (setT vs.1 vs.2)
  | .fault r => .fault r
  | .refused r => .refused r

/-- `OK` (30_encoding.md R110). -/
def statusOk : BitVec 2 := 0#2

/-- `PRECOND_FAIL` (30_encoding.md R110). -/
def statusPrecondFail : BitVec 2 := 1#2

/-- `ILLEGAL_CMD` (30_encoding.md R110). -/
def statusIllegalCmd : BitVec 2 := 2#2

/-- `respond(OK, data)` (10_state.md R42). -/
def respond (data : Word) (s : State) : State :=
  { s with mode := .idle, resp := ⟨statusOk, data⟩, respOutstanding := true }

/-- TAKING A FAULT (60_exceptions.md R206): the controller halts with the status in `RESP`; nothing
else changes. -/
def takeFault (status : BitVec 2) (s : State) : State :=
  { s with mode := .halted, resp := ⟨status, 0#32⟩, respOutstanding := true }

/-- The latching of a command (10_state.md R40, last line). -/
def latch (c : CommandWord) (s : State) : State :=
  { s with
    cmd := c
    a := argField c
    b := enField c
    upc := 0#5
    mode := .busy
    respOutstanding := false }

/-- Acceptance of a legal command (10_state.md R40): the range check comes before any bus access. -/
def accept (i : Instr) (s : State) : State :=
  if precond s.cfg i then latch (encode i) s else takeFault statusPrecondFail s

/-- A micro-step that reads: `T <- RegRead(i)`. -/
def readStep (i : Nat) (s : State) : Result := andThen (loadT i s) advance

/-- A micro-step that writes: `RegWrite(i, v)`. -/
def writeStep (i : Nat) (v : Word) (s : State) : Result := andThen (regWrite i v s) advance

/-- The last micro-step of an operation that writes: `RegWrite(i, v); respond(OK, 0)`. -/
def writeLast (i : Nat) (v : Word) (s : State) : Result :=
  andThen (writeStep i v s) (respond 0#32)

/-- The last micro-step of a getter: `T <- RegRead(i); respond(OK, data)`, `data` computed from
`T`. -/
def readLast (i : Nat) (data : Word → Word) (s : State) : Result :=
  andThen (readStep i s) fun s' => respond (data s'.t) s'

/-- A read-modify-write operation of two micro-steps on the register at index `i`: `T <- RegRead(i)`,
then `RegWrite(i, f T); respond(OK, 0)`. -/
def readModifyWrite (i : Nat) (f : Word → Word) (s : State) : Result :=
  match s.upc.toNat with
  | 0 => readStep i s
  | 1 => writeLast i (f s.t) s
  | _ => .fault .noMicroStep

/-- An operation of one micro-step. -/
def singleStep (m : State → Result) (s : State) : Result :=
  match s.upc.toNat with
  | 0 => m s
  | _ => .fault .noMicroStep

/-- The controller's step for operation `i` with micro-steps `m`: acceptance in mode IDLE (10_state.md
R40), the micro-step numbered `upc` in mode BUSY (R41), no step in mode HALTED (R43). -/
def controlStep (i : Instr) (m : State → Result) (s : State) : Result :=
  if s.cfg.wf then
    match s.mode with
    | .idle => .next (accept i s)
    | .busy => m s
    | .halted => .fault .halted
  else .refused .illFormedCfg

/-- The step of `Sync` (20_memory.md R67), enabled when a write is pending and the RTC clock runs;
otherwise the turn passes (assumption log 5). That an enabled `Sync` eventually steps is a property of
whole runs: `SyncFair` of Safety.lean. -/
def syncStep (clk : Bool) (s : State) : State :=
  match s.pending with
  | none => s
  | some p => if clk then { setCommitted p.reg p.val s with pending := none } else s

/-- The step of `RtcCore` (20_memory.md R72). -/
def rtcCoreStep (m : RtcMove) (s : State) : State :=
  { s with cnt := m.cnt.getD s.cnt, div := m.div.getD s.div, flg := s.flg.union m.raised }

/-- THE EXIT FROM A FAULT: the main-domain hardware reset (70_reset_and_hazards.md R230). The latches
become unspecified (assumption log 14); the register block is untouched. -/
def hardwareReset (s : State) : State :=
  let d := Config.latches s.fresh
  { s with
    mode := .idle
    cmd := d.cmd
    a := d.a
    b := d.b
    t := d.t
    upc := d.upc
    resp := d.resp
    respOutstanding := false
    fresh := s.fresh + 1 }

/-- The cold start of the backup domain (70_reset_and_hazards.md R231): the register block becomes
unspecified, `viol` 0, the controller as after a hardware reset. How a run begins, no agent's step
(00_scope.md R11; assumption log 17). -/
def coldStart (s : State) : State :=
  let d := Config.coldBlock s.fresh
  { hardwareReset s with
    w := d.w
    cnt := d.cnt
    alrm := d.alrm
    prl := d.prl
    div := d.div
    flg := d.flg
    ie := d.ie
    pending := d.pending
    viol := false }

end Sys2Proof.Machine
end

