-- ==== Sys2Proof/Machine/BulkReset.lean ====
section
/-!
DEFINITION. The `Reset` operation (40_bulk_reset.md R130).
-/

namespace Sys2Proof.Machine

/-- The 24 micro-steps of `Reset`, line by line the pseudocode of 40_bulk_reset.md R130. -/
def resetMicro (s : State) : Result :=
  let n := s.upc.toNat
  if n < 14 then writeStep n 0#32 s
  else if n < 19 then writeStep (0x10 + (n - 14)) 0#32 s
  else match n with
    | 19 => readStep s.cfg.idxCtrl s
    | 20 => writeStep s.cfg.idxCtrl (s.t ||| s.cfg.domainOn) s
    | 21 => readStep s.cfg.idxCtrl s
    | 22 => writeStep s.cfg.idxCtrl (s.t &&& s.cfg.domainOffKeep) s
    | 23 => writeLast s.cfg.idxCfg s.cfg.resetCfg s
    | _ => .fault .noMicroStep

/-- `Reset` (40_bulk_reset.md R130). -/
def execReset (s : State) : Result := controlStep .reset resetMicro s

end Sys2Proof.Machine
end

