-- ==== Sys2Proof/Machine/ConfigField.lean ====
section
/-!
DEFINITION. The bit-field operations of the RTC-configuration word `REG_0F`
(41_config_field_ops.md R140 to R145). The written value is computed from `T`, `A`, `B` and `Cfg`
only (10_state.md R41).
-/

namespace Sys2Proof.Machine

/-- `SetClockSource` (41_config_field_ops.md R140). -/
def execSetClockSource (arg : Word) (s : State) : Result :=
  controlStep (.setClockSource arg)
    (fun s => readModifyWrite s.cfg.idxCfg
      (fun t => insertField s.cfg.srcMask s.cfg.srcLsb t s.a) s) s

/-- `SetEnabled` (41_config_field_ops.md R142). -/
def execSetEnabled (en : Bool) (s : State) : Result :=
  controlStep (.setEnabled en)
    (fun s => readModifyWrite s.cfg.idxCfg (setOrClear s.b s.cfg.enMask) s) s

/-- `SetCalibration` (41_config_field_ops.md R143). -/
def execSetCalibration (arg : Word) (s : State) : Result :=
  controlStep (.setCalibration arg)
    (fun s => readModifyWrite s.cfg.idxCfg
      (fun t => insertField s.cfg.calMask s.cfg.calLsb t s.a) s) s

/-- `SetReset` (41_config_field_ops.md R144). -/
def execSetReset (en : Bool) (s : State) : Result :=
  controlStep (.setReset en)
    (fun s => readModifyWrite s.cfg.idxCfg (setOrClear s.b s.cfg.rstMask) s) s

end Sys2Proof.Machine
end

