-- ==== Sys2Proof/Machine/RtcValue.lean ====
section
/-!
DEFINITION. Whole-word access to the RTC value registers (42_rtc_value_ops.md R160 to R165), each
operation one micro-step. The setters do not check the write protocol (R161).
-/

namespace Sys2Proof.Machine

/-- `GetCounter` (42_rtc_value_ops.md R160). -/
def execGetCounter (s : State) : Result :=
  controlStep .getCounter (singleStep fun s => readLast s.cfg.idxCnt id s) s

/-- `SetCounter` (42_rtc_value_ops.md R161). -/
def execSetCounter (arg : Word) (s : State) : Result :=
  controlStep (.setCounter arg) (singleStep fun s => writeLast s.cfg.idxCnt s.a s) s

/-- `SetAlarm` (42_rtc_value_ops.md R162). -/
def execSetAlarm (arg : Word) (s : State) : Result :=
  controlStep (.setAlarm arg) (singleStep fun s => writeLast s.cfg.idxAlrm s.a s) s

/-- `GetDivider` (42_rtc_value_ops.md R163). -/
def execGetDivider (s : State) : Result :=
  controlStep .getDivider (singleStep fun s => readLast s.cfg.idxDiv id s) s

/-- `SetPrescaler` (42_rtc_value_ops.md R164). -/
def execSetPrescaler (arg : Word) (s : State) : Result :=
  controlStep (.setPrescaler arg) (singleStep fun s => writeLast s.cfg.idxPrl s.a s) s

end Sys2Proof.Machine
end

