-- ==== Sys2Proof/Machine/SyncStatus.lean ====
section
/-!
DEFINITION. The operations on the control/status word `RTC_CS` (43_sync_status_ops.md R180 to R184).
The event set and the selector are read from the latch `A`, which holds `arg` (10_state.md R31).
-/

namespace Sys2Proof.Machine

/-- `SetInterrupts` (43_sync_status_ops.md R180). -/
def execSetInterrupts (set : Events) (en : Bool) (s : State) : Result :=
  controlStep (.setInterrupts set en)
    (fun s => readModifyWrite s.cfg.idxCs (interruptsWord s.cfg (Events.ofArg s.a) s.b) s) s

/-- What the poll does with the word it read: respond when WEC reads asserted, else stay at `upc` 0
(43_sync_status_ops.md R181). -/
def pollDecide (s : State) : State :=
  if s.cfg.asserted s.t then respond 0#32 (advance s) else { s with upc := 0#5 }

/-- `WaitForUpdate` (43_sync_status_ops.md R181). -/
def execWaitForUpdate (s : State) : Result :=
  controlStep .waitForUpdate (singleStep fun s => andThen (loadT s.cfg.idxCs s) pollDecide) s

/-- `GetFlag` (43_sync_status_ops.md R182). -/
def execGetFlag (flag : Flag) (s : State) : Result :=
  controlStep (.getFlag flag)
    (singleStep fun s => readLast s.cfg.idxCs
      (fun t => if flagIn s.cfg t (Flag.ofArg s.a) then 1#32 else 0#32) s) s

/-- `ClearFlags` (43_sync_status_ops.md R183). -/
def execClearFlags (set : Events) (s : State) : Result :=
  controlStep (.clearFlags set)
    (fun s => readModifyWrite s.cfg.idxCs (clearWord s.cfg (Events.ofArg s.a)) s) s

end Sys2Proof.Machine
end

