-- ==== Sys2Proof/Machine/Dispatch.lean ====
section
/-!
DEFINITION. One arm per operation of spec/opcode_table.json: the controller's step for it.
-/

namespace Sys2Proof.Machine

def exec (i : Instr) (s : State) : Host.Outcome State Fault Refusal :=
  match i with
  -- 40_bulk_reset.md
  | .reset => Sys2Proof.Machine.execReset s
  -- 41_config_field_ops.md
  | .setClockSource arg => Sys2Proof.Machine.execSetClockSource arg s
  | .setEnabled en => Sys2Proof.Machine.execSetEnabled en s
  | .setCalibration arg => Sys2Proof.Machine.execSetCalibration arg s
  | .setReset en => Sys2Proof.Machine.execSetReset en s
  -- 43_sync_status_ops.md
  | .setInterrupts set en => Sys2Proof.Machine.execSetInterrupts set en s
  -- 42_rtc_value_ops.md
  | .getCounter => Sys2Proof.Machine.execGetCounter s
  | .setCounter arg => Sys2Proof.Machine.execSetCounter arg s
  | .setAlarm arg => Sys2Proof.Machine.execSetAlarm arg s
  | .getDivider => Sys2Proof.Machine.execGetDivider s
  | .setPrescaler arg => Sys2Proof.Machine.execSetPrescaler arg s
  -- 43_sync_status_ops.md
  | .waitForUpdate => Sys2Proof.Machine.execWaitForUpdate s
  | .getFlag flag => Sys2Proof.Machine.execGetFlag flag s
  | .clearFlags set => Sys2Proof.Machine.execClearFlags set s

end Sys2Proof.Machine
end

