-- ==== Sys2Proof/Machine/Agents.lean ====
section
/-!
DEFINITION. A step of the whole system is a step of exactly one agent (00_scope.md R11). Which agent,
and with what input, stands in `State.inputs`; where that list is empty it is a free value
(assumption log 5). An agent that is not enabled passes its turn.
-/

namespace Sys2Proof.Machine

/-- The input of this step, and the state with that input taken. A single step puts no condition on
the schedule; which infinite schedules are the spec's is `FairRun` of Safety.lean (assumption log
6). -/
def takeInput (s : State) : Input × State :=
  match s.inputs with
  | [] => (Config.input s.fresh, useDraw s)
  | i :: rest => (i, { s with inputs := rest })

/-- The step of the controller. In mode IDLE it accepts the next word the host presents, if there is
one (10_state.md R40): a legal word runs as its instruction, an illegal one is the fault `IllegalCmd`
(60_exceptions.md R202). In mode BUSY it performs a micro-step of the operation in `CMD` (R41). In
mode HALTED it has no step (R43). -/
def controllerStep (s : State) : Result :=
  match s.mode with
  | .idle =>
    match s.program with
    | [] => .next s
    | c :: rest =>
      match decode c with
      | .command i => exec i { s with program := rest }
      | .illegal _ => .next (takeFault statusIllegalCmd { s with program := rest })
  | .busy =>
    match decode s.cmd with
    | .command i => exec i s
    | .illegal _ => .fault .noCommand
  | .halted => .next s

/-- The step of the agent an input names. -/
def agentStep (i : Input) (s : State) : Result :=
  match i.move with
  | .controller => controllerStep s
  | .sync => .next (syncStep i.clk s)
  | .rtcCore m => .next (rtcCoreStep m s)
  | .readResponse => .next s
  | .hardwareReset => .next (hardwareReset s)

/-- One step of the system. A configuration that is not well-formed is refused (00_scope.md R7). -/
def systemStep (s : State) : Result :=
  if s.cfg.wf then agentStep (takeInput s).1 (takeInput s).2 else .refused .illFormedCfg

/-- `s` with a 40-bit word presented by the host to an idle controller, which has the next turn
(assumption log 7). The bits of `w` above `nbits` are 0. -/
def presentWord (s : State) (nbits w : Nat) : State :=
  { s with
    mode := .idle
    program := BitVec.ofNat 40 (w % 2 ^ nbits) :: s.program
    inputs := ⟨.controller, false⟩ :: s.inputs }

end Sys2Proof.Machine
end

