-- ==== Sys2Proof/Machine/Step.lean ====
section
/-!
DEFINITION. The step of the machine, and the state in which the very next step runs a given
instruction word.
-/

namespace Sys2Proof.Machine

/-- One step of the machine (00_scope.md R11): `systemStep` of Machine/Agents.lean. -/
def step (s : State) : Host.Outcome State Fault Refusal := systemStep s

/-- `s` with the instruction whose bits are `w` where `step` takes its next instruction: presented by
the host, the controller to move (assumption log 7). -/
def State.withFetchWord (s : State) (nbits w : Nat) : State := presentWord s nbits w

end Sys2Proof.Machine
end

