-- ==== Sys2Proof/Machine/Assembler.lean ====
section
/-!
DEFINITION. The textual form of a command (30_encoding.md R109): the operation's name, then its
operands separated by commas; numbers decimal or `0x` hexadecimal, unsigned, at most 32 bits; event
sets in braces; or in call notation, the operands in parentheses. A line is a list of characters. Spaces
are ignored after the name and a boolean is the bare digit 0 or 1 (DESIGN CHOICE, assumption log 32).
No step of the machine reads text.
-/

namespace Sys2Proof.Machine

/-- The opening brace of an event set. -/
def openBrace : Char := Char.ofNat 123

/-- The closing brace of an event set. -/
def closeBrace : Char := Char.ofNat 125

/-- The value of a digit in a base of at most 16. -/
def digitValue (base : Nat) (ch : Char) : Option Nat :=
  let n := ch.toNat
  let v :=
    if 48 ≤ n ∧ n ≤ 57 then n - 48
    else if 65 ≤ n ∧ n ≤ 70 then n - 55
    else if 97 ≤ n ∧ n ≤ 102 then n - 87
    else base
  if v < base then some v else none

/-- The number written by a list of digits, after `acc`. -/
def digitsValue (base : Nat) : List Char → Nat → Option Nat
  | [], acc => some acc
  | ch :: rest, acc =>
    match digitValue base ch with
    | some d => digitsValue base rest (acc * base + d)
    | none => none

/-- A nonempty number of at most 32 bits in the given base. -/
def numberIn (base : Nat) (cs : List Char) : Option Word :=
  if cs.isEmpty then none
  else match digitsValue base cs 0 with
    | some n => if n < 2 ^ 32 then some (BitVec.ofNat 32 n) else none
    | none => none

/-- A decimal or `0x` hexadecimal number (30_encoding.md R109). -/
def parseNumber : List Char → Option Word
  | '0' :: 'x' :: rest => numberIn 16 rest
  | cs => numberIn 10 cs

/-- A clock source: a name, which stands for its code, or a number (30_encoding.md R102, R109). -/
def parseSource (c : Cfg) : List Char → Option Word
  | ['L', 'S', 'I'] => some c.codeLsi
  | ['L', 'S', 'E'] => some c.codeLse
  | ['H', 'S', 'I'] => some c.codeHsi
  | ['H', 'S', 'E'] => some c.codeHse
  | cs => parseNumber cs

/-- A boolean operand: the bare digit 0 or 1. Whether another spelling of the number (`0x1`, `01`) is
one too, 30_encoding.md R109 leaves open (DESIGN CHOICE, safe: assumption log 32). -/
def parseBool : List Char → Option Bool
  | ['0'] => some false
  | ['1'] => some true
  | _ => none

/-- The name of an event, as a set of one. -/
def parseEvent : List Char → Option Events
  | ['O', 'W'] => some ⟨true, false, false⟩
  | ['A', 'L', 'R'] => some ⟨false, true, false⟩
  | ['S', 'E', 'C'] => some ⟨false, false, true⟩
  | _ => none

/-- A flag selector (30_encoding.md R105, R109). -/
def parseFlag : List Char → Option Flag
  | ['W', 'E', 'C'] => some .wec
  | ['O', 'W'] => some (.event .ow)
  | ['A', 'L', 'R'] => some (.event .alr)
  | ['S', 'E', 'C'] => some (.event .sec)
  | _ => none

/-- The event names of a set, `word` the letters of the one being read, up to the closing brace; the
text after it. -/
def parseSetBody : List Char → List Char → Events → Option (Events × List Char)
  | [], _, _ => none
  | ch :: rest, word, acc =>
    if ch = closeBrace then
      if word.isEmpty then (if acc = Events.none then some (acc, rest) else none)
      else match parseEvent word with
        | some e => some (acc.union e, rest)
        | none => none
    else if ch = ',' then
      match parseEvent word with
      | some e => parseSetBody rest [] (acc.union e)
      | none => none
    else parseSetBody rest (word ++ [ch]) acc

/-- An event set in braces and the text after it (30_encoding.md R104, R109). -/
def parseSet : List Char → Option (Events × List Char)
  | [] => none
  | ch :: rest => if ch = openBrace then parseSetBody rest [] Events.none else none

/-- The instruction an operation's name and its operand text (without spaces) denote. -/
def parseCommand (c : Cfg) (name : String) (operands : List Char) : Option Instr :=
  let plain (i : Instr) : Option Instr := if operands.isEmpty then some i else none
  if name = "Reset" then plain .reset
  else if name = "SetClockSource" then (parseSource c operands).map .setClockSource
  else if name = "SetEnabled" then (parseBool operands).map .setEnabled
  else if name = "SetCalibration" then (parseNumber operands).map .setCalibration
  else if name = "SetReset" then (parseBool operands).map .setReset
  else if name = "SetInterrupts" then
    match parseSet operands with
    | some (set, ',' :: rest) => (parseBool rest).map (.setInterrupts set)
    | _ => none
  else if name = "GetCounter" then plain .getCounter
  else if name = "SetCounter" then (parseNumber operands).map .setCounter
  else if name = "SetAlarm" then (parseNumber operands).map .setAlarm
  else if name = "GetDivider" then plain .getDivider
  else if name = "SetPrescaler" then (parseNumber operands).map .setPrescaler
  else if name = "WaitForUpdate" then plain .waitForUpdate
  else if name = "GetFlag" then (parseFlag operands).map .getFlag
  else if name = "ClearFlags" then
    match parseSet operands with
    | some (set, []) => some (.clearFlags set)
    | _ => none
  else none

/-- The letters before the first space or parenthesis, and the text after them without its spaces. -/
def splitLine : List Char → List Char × List Char
  | [] => ([], [])
  | ch :: rest =>
    if ch = ' ' then ([], rest.filter (fun d => d != ' '))
    else if ch = '(' then ([], ch :: rest.filter (fun d => d != ' '))
    else (ch :: (splitLine rest).1, (splitLine rest).2)

/-- The text before a closing parenthesis that ends the line. A text that goes on after the parenthesis,
such as the result of a getter (`-> value`), is refused (DESIGN CHOICE, safe: assumption log 32). -/
def beforeClosing : List Char → Option (List Char)
  | [] => none
  | [ch] => if ch = ')' then some [] else none
  | ch :: rest => (beforeClosing rest).map (fun text => ch :: text)

/-- The operands of either notation, call notation or not (30_encoding.md R109: the two are
interchangeable). R109 writes a getter's call with its result, `GetCounter() -> value`, and leaves open
whether a line may carry it; here the result is no part of the line, which is `GetCounter()` (DESIGN
CHOICE, safe: assumption log 32). -/
def operandText : List Char → Option (List Char)
  | '(' :: rest => beforeClosing rest
  | text => some text

/-- The instruction a line of text denotes (30_encoding.md R109). -/
def assemble (c : Cfg) (line : List Char) : Option Instr :=
  match operandText (splitLine line).2 with
  | some operands => parseCommand c (String.ofList (splitLine line).1) operands
  | none => none

end Sys2Proof.Machine
end

