-- ==== Sys2Proof/WellFormed.lean ====
section
/-!
DEFINITION. What a well-formed instruction is on a machine with configuration `c`: the configuration
is well-formed (00_scope.md R7) and the operand is in its legal range (30_encoding.md R101,
60_exceptions.md R201). Every term of `Instr`, in range or not, has a command word (R102); the words
that are no instruction are refused by the decoder (R107).
-/

namespace Sys2Proof

/-- The instruction's operand is legal on a well-formed configuration. -/
def Instr.wellFormed (c : Cfg) (i : Instr) : Bool := c.wf && precond c i

end Sys2Proof
end

