-- ==== Sys2Proof/Safety.lean ====
section
/-!
DEFINITION. The vocabulary of claims: the invariant of reachable states (10_state.md R37), the end of
a run (R45), the named premises (92_eei_decisions.md section 2), the controller running alone, the
system running under a given schedule, the fair infinite runs (20_memory.md R67,
70_reset_and_hazards.md R244), and where an operation stands in its sequence of micro-steps.
-/

namespace Sys2Proof.Machine

/-- The number of micro-steps of an operation (40_bulk_reset.md R130, 41_config_field_ops.md R145,
42_rtc_value_ops.md R165, 43_sync_status_ops.md R184). -/
def microCount : Instr → Nat
  | .reset => 24
  | .setClockSource _ => 2
  | .setEnabled _ => 2
  | .setCalibration _ => 2
  | .setReset _ => 2
  | .setInterrupts _ _ => 2
  | .getCounter => 1
  | .setCounter _ => 1
  | .setAlarm _ => 1
  | .getDivider => 1
  | .setPrescaler _ => 1
  | .waitForUpdate => 1
  | .getFlag _ => 1
  | .clearFlags _ => 2

/-- The controller executes `i`: BUSY with `CMD` the word of `i`, `A` and `B` its operand fields, the
operand in range, and `upc` the number of a micro-step (10_state.md R31, R37 c, R40). -/
def Executing (i : Instr) (s : State) : Prop :=
  s.mode = .busy ∧ s.cmd = encode i ∧ s.a = argOf i ∧ s.b = enOf i
    ∧ precond s.cfg i = true ∧ s.upc.toNat < microCount i

/-- The invariant of reachable states (10_state.md R37 c, 00_scope.md R7): the configuration is
well-formed and a BUSY controller executes a legal command whose precondition held. -/
def Inv (s : State) : Prop := s.cfg.wf = true ∧ (s.mode = .busy → ∃ i, Executing i s)

/-- A run has ended (10_state.md R45). -/
def Ended (s : State) : Prop := s.program = [] ∧ s.mode = .idle ∧ s.pending = none

/-- A faulted state (10_state.md R43, R45). -/
def Faulted (s : State) : Prop := s.mode = .halted

/-- The premise NoViolation (92_eei_decisions.md section 2). -/
def NoViolation (s : State) : Prop := s.viol = false

/-- The premise RtcQuiescent on a schedule: `RtcCore` takes no step (20_memory.md R72). -/
def RtcQuiescent (ins : List Input) : Prop := ∀ i ∈ ins, ∀ m, i.move ≠ .rtcCore m

/-- No input of the schedule is the hardware reset. -/
def NoHardwareReset (ins : List Input) : Prop := ∀ i ∈ ins, i.move ≠ .hardwareReset

/-- The RTC clock runs at no step of the schedule (10_state.md R35). -/
def ClockStopped (ins : List Input) : Prop := ∀ i ∈ ins, i.clk = false

/-- An idle controller accepts `i` (10_state.md R40): it latches the word and its fields and turns
BUSY at micro-step 0; nothing else changes but, possibly, whether a response is outstanding. -/
def Accepts (i : Instr) (s : State) : Prop :=
  ∃ o, exec i s = .next { s with
    mode := .busy, cmd := encode i, a := argOf i, b := enOf i, upc := 0#5, respOutstanding := o }

/-- An idle controller turns `i` away (10_state.md R40, 60_exceptions.md R201, R206): it halts with
`(PRECOND_FAIL, 0)`; nothing else changes but, possibly, whether a response is outstanding. -/
def TurnedAway (i : Instr) (s : State) : Prop :=
  ∃ o, exec i s = .next { s with
    mode := .halted, resp := ⟨1#2, 0#32⟩, respOutstanding := o }

/-- `n` steps of the controller for operation `i` with no other agent between them. -/
def runAlone (i : Instr) : Nat → State → Result
  | 0, s => .next s
  | n + 1, s =>
    match exec i s with
    | .next s' => runAlone i n s'
    | .fault r => .fault r
    | .refused r => .refused r

/-- The run of the system from `s` under a given schedule, one step an input. -/
def runSchedule (ins : List Input) (s : State) : Result :=
  Host.Core.run Sys2Proof.core ins.length { s with inputs := ins }

/-- An infinite run of the system under the schedule `σ`: the input of step `n` is `σ n`
(00_scope.md R11). -/
def IsRun (σ : Nat → Input) (r : Nat → State) : Prop :=
  ∀ n, step { r n with inputs := [σ n] } = .next (r (n + 1))

/-- `Sync` is enabled at step `n` of a run: a write is pending and the RTC clock runs
(20_memory.md R67). -/
def SyncEnabledAt (σ : Nat → Input) (r : Nat → State) (n : Nat) : Prop :=
  (r n).pending ≠ none ∧ (σ n).clk = true

/-- Weak fairness of `Sync` (20_memory.md R67): if from some point on it stays enabled, it eventually
steps. No bound on the steps of other agents before it. -/
def SyncFair (σ : Nat → Input) (r : Nat → State) : Prop :=
  ∀ n, (∀ m, n ≤ m → SyncEnabledAt σ r m) → ∃ m, n ≤ m ∧ (σ m).move = .sync

/-- Weak fairness of the controller (43_sync_status_ops.md R181, 92_eei_decisions.md D30): if from some
point on it stays BUSY, and so has a micro-step to perform, it eventually steps. When it accepts a
command is the host's choice too (10_state.md R44), so no fairness is asked in mode IDLE. -/
def ControllerFair (σ : Nat → Input) (r : Nat → State) : Prop :=
  ∀ n, (∀ m, n ≤ m → (r m).mode = .busy) → ∃ m, n ≤ m ∧ (σ m).move = .controller

/-- A run of the system as the spec means it: free scheduling, with `Sync` and the controller weakly
fair (70_reset_and_hazards.md R244, 20_memory.md R67). -/
def FairRun (σ : Nat → Input) (r : Nat → State) : Prop :=
  IsRun σ r ∧ SyncFair σ r ∧ ControllerFair σ r

/-- The premise ClockRuns (92_eei_decisions.md section 2): `rtc_clk_running` is true from some point
on. -/
def ClockRuns (σ : Nat → Input) : Prop := ∃ n, ∀ m, n ≤ m → (σ m).clk = true

/-- An answer with the ghost mark `viol` forgotten (10_state.md R30). -/
def forgetViol (o : Result) : Result := andThen o fun s => { s with viol := false }

/-- What an operation on the RTC-configuration word makes of it: the formulas of
41_config_field_ops.md R140, R142, R143 and R144; `none` for every other operation. -/
def configResult (c : Cfg) (old : Word) : Instr → Option Word
  | .setClockSource arg => some ((old &&& ~~~c.srcMask) ||| (arg <<< c.srcLsb))
  | .setEnabled en => some (if en then old ||| c.enMask else old &&& ~~~c.enMask)
  | .setCalibration arg => some ((old &&& ~~~c.calMask) ||| (arg <<< c.calLsb))
  | .setReset en => some (if en then old ||| c.rstMask else old &&& ~~~c.rstMask)
  | .reset => none
  | .setInterrupts _ _ => none
  | .getCounter => none
  | .setCounter _ => none
  | .setAlarm _ => none
  | .getDivider => none
  | .setPrescaler _ => none
  | .waitForUpdate => none
  | .getFlag _ => none
  | .clearFlags _ => none

/-- The four operations on the RTC-configuration word (41_config_field_ops.md). -/
def IsConfigOp (i : Instr) : Prop :=
  (∃ arg, i = .setClockSource arg) ∨ (∃ en, i = .setEnabled en)
    ∨ (∃ arg, i = .setCalibration arg) ∨ ∃ en, i = .setReset en

/-- The controller is BUSY with an operation that writes a synchronized register: `Reset`, `SetCounter`,
`SetAlarm` or `SetPrescaler`, the four whose micro-steps can be a protocol violation (20_memory.md
R66, 40_bulk_reset.md R130, 42_rtc_value_ops.md R161, R162, R164). -/
def WritesSynchronized (s : State) : Prop :=
  s.mode = .busy ∧ (decode s.cmd = .command .reset ∨ (∃ v, decode s.cmd = .command (.setCounter v))
    ∨ (∃ v, decode s.cmd = .command (.setAlarm v)) ∨ ∃ v, decode s.cmd = .command (.setPrescaler v))

/-- An operation on `REG_0F` under way from the value `old`: nothing written yet, and after the read
`T` holds `old` (41_config_field_ops.md R145 d). -/
def ConfigUnderWay (old : Word) (i : Instr) (s : State) : Prop :=
  Executing i s ∧ s.reg0F = old ∧ (s.upc = 1#5 → s.t = old)

/-- What a set or clear of enables, or a clear of flags, makes of the enables (43_sync_status_ops.md
R180, R183); `none` for every other operation. -/
def enablesResult (old : Events) : Instr → Option Events
  | .setInterrupts set en => some (if en then old.union set else old.minus set)
  | .clearFlags _ => some old
  | .reset => none
  | .setClockSource _ => none
  | .setEnabled _ => none
  | .setCalibration _ => none
  | .setReset _ => none
  | .getCounter => none
  | .setCounter _ => none
  | .setAlarm _ => none
  | .getDivider => none
  | .setPrescaler _ => none
  | .waitForUpdate => none
  | .getFlag _ => none

/-- The event flags an operation means to clear (43_sync_status_ops.md R183, R184 d). -/
def clearTargets : Instr → Events
  | .clearFlags set => set
  | .reset => Events.none
  | .setClockSource _ => Events.none
  | .setEnabled _ => Events.none
  | .setCalibration _ => Events.none
  | .setReset _ => Events.none
  | .setInterrupts _ _ => Events.none
  | .getCounter => Events.none
  | .setCounter _ => Events.none
  | .setAlarm _ => Events.none
  | .getDivider => Events.none
  | .setPrescaler _ => Events.none
  | .waitForUpdate => Events.none
  | .getFlag _ => Events.none

/-- A read-modify-write of `RTC_CS` under way from the enables `old`: after the read, `T` shows `old`
at the enable positions (20_memory.md R75 b). -/
def StatusUnderWay (old : Events) (i : Instr) (s : State) : Prop :=
  Executing i s ∧ s.ie = old ∧ (s.upc = 1#5 → enabledBy s.cfg s.t = old)

/-- `Reset` under way from the control word `old` (40_bulk_reset.md R130): the plain words below `upc`
are zero, the enables are zero once the write of `RTC_CS` is made, and `REG_0E` and `T` stand as the
ON and OFF steps leave them. -/
def ResetUnderWay (old : Word) (s : State) : Prop :=
  Executing .reset s
    ∧ (∀ k : Fin 14, k.val < s.upc.toNat → s.w[k.val] = 0#32)
    ∧ (s.cfg.idxCs < s.upc.toNat + 2 → s.ie = ⟨false, false, false⟩)
    ∧ (s.upc.toNat ≤ 20 → s.reg0E = old)
    ∧ (s.upc.toNat = 20 → s.t = old)
    ∧ (s.upc.toNat = 21 ∨ s.upc.toNat = 22 → s.reg0E = old ||| s.cfg.domainOn)
    ∧ (s.upc.toNat = 22 → s.t = old ||| s.cfg.domainOn)
    ∧ (s.upc.toNat = 23 → s.reg0E = (old ||| s.cfg.domainOn) &&& s.cfg.domainOffKeep)

/-- What `Reset` leaves at its response (40_bulk_reset.md R131 a, b, e, f). -/
def ResetLeft (old : Word) (s : State) : Prop :=
  s.mode = .idle ∧ s.resp = ⟨statusOk, 0#32⟩
    ∧ (∀ k : Fin 14, s.w[k.val] = 0#32)
    ∧ s.reg0F = s.cfg.resetCfg
    ∧ s.ie = ⟨false, false, false⟩
    ∧ s.reg0E = (old ||| s.cfg.domainOn) &&& s.cfg.domainOffKeep

end Sys2Proof.Machine
end

