-- ==== Sys2Proof/Certificates/Slice0/Obligations.lean ====
section
/-!
DEFINITION. The statements for the provers, from the numbered rules of spec/. A statement about an
operation writes the next state out whole, so it is at once the operation's effect, its frame and the
state in which it completes.
-/

open Sys2Proof Sys2Proof.Machine

/-! ### Encoding (30_encoding.md) -/

/-- Words written out from the patterns of 30_encoding.md R106 and the table of 95_test_vectors.md
section 2.1 decode as those files say. -/
def Obligations.SampleWordsDecode : Prop :=
  decode 0x0000000000#40 = .command .reset
    ∧ decode 0x1000000002#40 = .command (.setClockSource 2#32)
    ∧ decode 0x2100000000#40 = .command (.setEnabled true)
    ∧ decode 0x30000000FF#40 = .command (.setCalibration 255#32)
    ∧ decode 0x4100000000#40 = .command (.setReset true)
    ∧ decode 0x5100000005#40 = .command (.setInterrupts ⟨true, false, true⟩ true)
    ∧ decode 0x6000000000#40 = .command .getCounter
    ∧ decode 0x70FFFFFFFF#40 = .command (.setCounter 0xFFFFFFFF#32)
    ∧ decode 0x800000003C#40 = .command (.setAlarm 60#32)
    ∧ decode 0x9000000000#40 = .command .getDivider
    ∧ decode 0xA000100000#40 = .command (.setPrescaler 0x100000#32)
    ∧ decode 0xB000000000#40 = .command .waitForUpdate
    ∧ decode 0xC000000003#40 = .command (.getFlag (.event .sec))
    ∧ decode 0xD000000007#40 = .command (.clearFlags ⟨true, true, true⟩)
    ∧ decode 0x0200000000#40 = .illegal .reservedBits
    ∧ decode 0x1100000002#40 = .illegal .strayEn
    ∧ decode 0x5000000008#40 = .illegal .strayArg
    ∧ decode 0xE000000000#40 = .illegal .reservedOp

/-- Decoding the word of an instruction gives the instruction back, every operand at every value
(30_encoding.md R100 to R106). -/
def Obligations.DecodeOfEncode : Prop := ∀ i : Instr, decode (encode i) = .command i

/-- A legal word is the word of the instruction it decodes to: no bit of it is dropped
(30_encoding.md R106, R107). -/
def Obligations.EncodeOfDecode : Prop :=
  ∀ (c : CommandWord) (i : Instr), decode c = .command i → encode i = c

/-- A word is legal exactly when it selects a row of the opcode map, and it selects at most one
(30_encoding.md R106, R107). -/
def Obligations.LegalWordsSelectOneRow : Prop :=
  ∀ c : CommandWord,
    ((∃ i, decode c = .command i) ↔ ∃ r ∈ opcodeRows, r.selects c = true)
      ∧ ∀ r ∈ opcodeRows, ∀ q ∈ opcodeRows, r.selects c = true → q.selects c = true → r = q

/-- The examples of 30_encoding.md R109 denote the operations they name (default register map, for
the source name). -/
def Obligations.AssemblerExamples : Prop :=
  assemble defaultCfg "Reset".toList = some .reset
    ∧ assemble defaultCfg "SetClockSource LSE".toList = some (.setClockSource 1#32)
    ∧ assemble defaultCfg "SetClockSource 1".toList = some (.setClockSource 1#32)
    ∧ assemble defaultCfg "SetEnabled 1".toList = some (.setEnabled true)
    ∧ assemble defaultCfg "SetCalibration 165".toList = some (.setCalibration 165#32)
    ∧ assemble defaultCfg "SetReset 0".toList = some (.setReset false)
    ∧ assemble defaultCfg ("SetInterrupts ".toList ++ [openBrace] ++ "OW,ALR".toList
        ++ [closeBrace] ++ ", 1".toList) = some (.setInterrupts ⟨true, true, false⟩ true)
    ∧ assemble defaultCfg "SetCounter 0x12345678".toList = some (.setCounter 0x12345678#32)
    ∧ assemble defaultCfg "SetAlarm 60".toList = some (.setAlarm 60#32)
    ∧ assemble defaultCfg "SetPrescaler 32767".toList = some (.setPrescaler 32767#32)
    ∧ assemble defaultCfg "WaitForUpdate".toList = some .waitForUpdate
    ∧ assemble defaultCfg "GetFlag WEC".toList = some (.getFlag .wec)
    ∧ assemble defaultCfg ("ClearFlags ".toList ++ [openBrace] ++ "OW,ALR".toList
        ++ [closeBrace]) = some (.clearFlags ⟨true, true, false⟩)

/-! ### The operations, each whole: encoding, acceptance, micro-steps

The latches `A` and `B` hold `arg` and `en` while the operation runs (10_state.md R31). Where a last
micro-step completes, `upc` and the bit "a response is outstanding" are left open here: what the model
does with them is assumption log 11 and 18, stated in `MicroStepCounter` and
`CompletesAtLastMicroStep`. So is the number of the next draw (log 34). -/

/-- `Reset` (40_bulk_reset.md R130): its word, no precondition, and its 24 micro-steps in `upc`
order. The five writes to 0x10..0x14 are stated by the register the map puts there. -/
def Obligations.ResetOperation : Prop :=
  encode .reset = 0x0000000000#40
    ∧ ∀ s : State, s.cfg.wf = true → (s.mode = .idle → Accepts .reset s) ∧ (s.mode = .busy →
      (∀ (n : Nat) (h : n < 14), s.upc = BitVec.ofNat 5 n →
        exec .reset s = .next { s with w := s.w.set n 0#32, upc := s.upc + 1#5 })
      ∧ (∀ n, 14 ≤ n → n < 19 → s.upc = BitVec.ofNat 5 n →
        (∀ x, 0x10 + (n - 14) = syncedIdx s.cfg x →
          (s.pending = none →
            exec .reset s = .next { s with pending := some ⟨x, 0#32⟩, upc := s.upc + 1#5 })
          ∧ (s.pending ≠ none → ∃ c1 c2 c3 p f,
            exec .reset s = .next { s with
              viol := true, cnt := c1, alrm := c2, prl := c3,
              pending := some p, fresh := f, upc := s.upc + 1#5 }))
        ∧ (0x10 + (n - 14) = s.cfg.idxDiv →
          exec .reset s = .next { s with upc := s.upc + 1#5 })
        ∧ (0x10 + (n - 14) = s.cfg.idxCs →
          exec .reset s = .next { s with ie := ⟨false, false, false⟩, upc := s.upc + 1#5 }))
      ∧ (s.upc = 19#5 → exec .reset s = .next { s with t := s.w[0x0E], upc := 20#5 })
      ∧ (s.upc = 20#5 → exec .reset s
          = .next { s with w := s.w.set 0x0E (s.t ||| s.cfg.domainOn), upc := 21#5 })
      ∧ (s.upc = 21#5 → exec .reset s = .next { s with t := s.w[0x0E], upc := 22#5 })
      ∧ (s.upc = 22#5 → exec .reset s
          = .next { s with w := s.w.set 0x0E (s.t &&& s.cfg.domainOffKeep), upc := 23#5 })
      ∧ (s.upc = 23#5 → ∃ u o, exec .reset s
          = .next { s with
            w := s.w.set 0x0F s.cfg.resetCfg, mode := .idle, resp := ⟨0#2, 0#32⟩,
            upc := u, respOutstanding := o }))

/-- `SetClockSource` (41_config_field_ops.md R140). -/
def Obligations.SetClockSourceOperation : Prop :=
  (∀ arg, encode (.setClockSource arg) = 0x10#8 ++ arg)
    ∧ ∀ (arg : Word) (s : State), s.cfg.wf = true →
      (s.mode = .idle → (∃ src, arg = s.cfg.srcCode src) → Accepts (.setClockSource arg) s)
      ∧ (s.mode = .idle → (∀ src, arg ≠ s.cfg.srcCode src) → TurnedAway (.setClockSource arg) s)
      ∧ (s.mode = .busy → s.upc = 0#5 → exec (.setClockSource arg) s
          = .next { s with t := s.w[0x0F], upc := 1#5 })
      ∧ (s.mode = .busy → s.upc = 1#5 → ∃ u o, exec (.setClockSource arg) s
          = .next { s with
            w := s.w.set 0x0F ((s.t &&& ~~~(((1#32 <<< s.cfg.srcW) - 1#32) <<< s.cfg.srcLsb))
              ||| (s.a <<< s.cfg.srcLsb)),
            mode := .idle, resp := ⟨0#2, 0#32⟩, upc := u, respOutstanding := o })

/-- `SetEnabled` (41_config_field_ops.md R142). -/
def Obligations.SetEnabledOperation : Prop :=
  encode (.setEnabled false) = 0x2000000000#40 ∧ encode (.setEnabled true) = 0x2100000000#40
    ∧ ∀ (en : Bool) (s : State), s.cfg.wf = true →
      (s.mode = .idle → Accepts (.setEnabled en) s)
      ∧ (s.mode = .busy → s.upc = 0#5 → exec (.setEnabled en) s
          = .next { s with t := s.w[0x0F], upc := 1#5 })
      ∧ (s.mode = .busy → s.upc = 1#5 → ∃ u o, exec (.setEnabled en) s
          = .next { s with
            w := s.w.set 0x0F (if s.b then s.t ||| (1#32 <<< s.cfg.enBit)
              else s.t &&& ~~~(1#32 <<< s.cfg.enBit)),
            mode := .idle, resp := ⟨0#2, 0#32⟩, upc := u, respOutstanding := o })

/-- `SetCalibration` (41_config_field_ops.md R143). -/
def Obligations.SetCalibrationOperation : Prop :=
  (∀ arg, encode (.setCalibration arg) = 0x30#8 ++ arg)
    ∧ ∀ (arg : Word) (s : State), s.cfg.wf = true →
      (s.mode = .idle → arg.toNat ≤ 255 → Accepts (.setCalibration arg) s)
      ∧ (s.mode = .idle → arg.toNat > 255 → TurnedAway (.setCalibration arg) s)
      ∧ (s.mode = .busy → s.upc = 0#5 → exec (.setCalibration arg) s
          = .next { s with t := s.w[0x0F], upc := 1#5 })
      ∧ (s.mode = .busy → s.upc = 1#5 → ∃ u o, exec (.setCalibration arg) s
          = .next { s with
            w := s.w.set 0x0F ((s.t &&& ~~~(0xFF#32 <<< s.cfg.calLsb))
              ||| (s.a <<< s.cfg.calLsb)),
            mode := .idle, resp := ⟨0#2, 0#32⟩, upc := u, respOutstanding := o })

/-- `SetReset` (41_config_field_ops.md R144). -/
def Obligations.SetResetOperation : Prop :=
  encode (.setReset false) = 0x4000000000#40 ∧ encode (.setReset true) = 0x4100000000#40
    ∧ ∀ (en : Bool) (s : State), s.cfg.wf = true →
      (s.mode = .idle → Accepts (.setReset en) s)
      ∧ (s.mode = .busy → s.upc = 0#5 → exec (.setReset en) s
          = .next { s with t := s.w[0x0F], upc := 1#5 })
      ∧ (s.mode = .busy → s.upc = 1#5 → ∃ u o, exec (.setReset en) s
          = .next { s with
            w := s.w.set 0x0F (if s.b then s.t ||| (1#32 <<< s.cfg.rstBit)
              else s.t &&& ~~~(1#32 <<< s.cfg.rstBit)),
            mode := .idle, resp := ⟨0#2, 0#32⟩, upc := u, respOutstanding := o })

/-- `SetInterrupts` (43_sync_status_ops.md R180): the enables of `S` become `B`, the others keep the
value read, no flag and nothing else changes. -/
def Obligations.SetInterruptsOperation : Prop :=
  (∀ set, encode (.setInterrupts set false) = 0x50#8 ++ set.toArg)
    ∧ (∀ set, encode (.setInterrupts set true) = 0x51#8 ++ set.toArg)
    ∧ ∀ (set : Events) (en : Bool) (s : State), s.cfg.wf = true →
      (s.mode = .idle → Accepts (.setInterrupts set en) s)
      ∧ (s.mode = .busy → s.upc = 0#5 → exec (.setInterrupts set en) s
          = .next { s with t := readCs s, upc := 1#5 })
      ∧ (s.a = set.toArg → s.mode = .busy → s.upc = 1#5 → ∃ u o, exec (.setInterrupts set en) s
          = .next { s with
            ie := ⟨if set.ow then s.b else s.t.getLsbD s.cfg.ieOw,
              if set.alr then s.b else s.t.getLsbD s.cfg.ieAlr,
              if set.sec then s.b else s.t.getLsbD s.cfg.ieSec⟩,
            mode := .idle, resp := ⟨0#2, 0#32⟩, upc := u, respOutstanding := o })

/-- `GetCounter` (42_rtc_value_ops.md R160): the word read from `RTC_CNT` is the committed value, or
while a write to it is pending the value `PENDING_READ` says. -/
def Obligations.GetCounterOperation : Prop :=
  encode .getCounter = 0x6000000000#40
    ∧ ∀ s : State, s.cfg.wf = true → (s.mode = .idle → Accepts .getCounter s)
      ∧ (s.mode = .busy → s.upc = 0#5 →
        ((∀ v, s.pending ≠ some ⟨.cnt, v⟩) → ∃ u o, exec .getCounter s
          = .next { s with
            t := s.cnt, mode := .idle, resp := ⟨0#2, s.cnt⟩, upc := u, respOutstanding := o })
        ∧ (∀ v, s.pending = some ⟨.cnt, v⟩ → s.cfg.pendingRead = .old → ∃ u o, exec .getCounter s
          = .next { s with
            t := s.cnt, mode := .idle, resp := ⟨0#2, s.cnt⟩, upc := u, respOutstanding := o })
        ∧ (∀ v, s.pending = some ⟨.cnt, v⟩ → s.cfg.pendingRead = .new → ∃ u o, exec .getCounter s
          = .next { s with
            t := v, mode := .idle, resp := ⟨0#2, v⟩, upc := u, respOutstanding := o })
        ∧ (∀ v, s.pending = some ⟨.cnt, v⟩ → s.cfg.pendingRead = .either →
          ∃ r u o f, (r = s.cnt ∨ r = v) ∧ exec .getCounter s
            = .next { s with
              t := r, mode := .idle, resp := ⟨0#2, r⟩, upc := u, respOutstanding := o,
              fresh := f }))

/-- `SetCounter` (42_rtc_value_ops.md R161): accepted into the empty pending slot, else the protocol
violation, whose values are free; the response is `(OK, 0)` either way. -/
def Obligations.SetCounterOperation : Prop :=
  (∀ arg, encode (.setCounter arg) = 0x70#8 ++ arg)
    ∧ ∀ (arg : Word) (s : State), s.cfg.wf = true →
      (s.mode = .idle → Accepts (.setCounter arg) s)
      ∧ (s.mode = .busy → s.upc = 0#5 →
        (s.pending = none → ∃ u o, exec (.setCounter arg) s
          = .next { s with
            pending := some ⟨.cnt, s.a⟩, mode := .idle, resp := ⟨0#2, 0#32⟩,
            upc := u, respOutstanding := o })
        ∧ (s.pending ≠ none → ∃ c1 c2 c3 p f u o, exec (.setCounter arg) s
          = .next { s with
            viol := true, cnt := c1, alrm := c2, prl := c3, pending := some p, fresh := f,
            mode := .idle, resp := ⟨0#2, 0#32⟩, upc := u, respOutstanding := o }))

/-- `SetAlarm` (42_rtc_value_ops.md R162). -/
def Obligations.SetAlarmOperation : Prop :=
  (∀ arg, encode (.setAlarm arg) = 0x80#8 ++ arg)
    ∧ ∀ (arg : Word) (s : State), s.cfg.wf = true →
      (s.mode = .idle → Accepts (.setAlarm arg) s)
      ∧ (s.mode = .busy → s.upc = 0#5 →
        (s.pending = none → ∃ u o, exec (.setAlarm arg) s
          = .next { s with
            pending := some ⟨.alrm, s.a⟩, mode := .idle, resp := ⟨0#2, 0#32⟩,
            upc := u, respOutstanding := o })
        ∧ (s.pending ≠ none → ∃ c1 c2 c3 p f u o, exec (.setAlarm arg) s
          = .next { s with
            viol := true, cnt := c1, alrm := c2, prl := c3, pending := some p, fresh := f,
            mode := .idle, resp := ⟨0#2, 0#32⟩, upc := u, respOutstanding := o }))

/-- `GetDivider` (42_rtc_value_ops.md R163). -/
def Obligations.GetDividerOperation : Prop :=
  encode .getDivider = 0x9000000000#40
    ∧ ∀ s : State, s.cfg.wf = true → (s.mode = .idle → Accepts .getDivider s)
      ∧ (s.mode = .busy → s.upc = 0#5 → ∃ u o, exec .getDivider s
          = .next { s with
            t := s.div, mode := .idle, resp := ⟨0#2, s.div⟩, upc := u, respOutstanding := o })

/-- `SetPrescaler` (42_rtc_value_ops.md R164). -/
def Obligations.SetPrescalerOperation : Prop :=
  (∀ arg, encode (.setPrescaler arg) = 0xA0#8 ++ arg)
    ∧ ∀ (arg : Word) (s : State), s.cfg.wf = true →
      (s.mode = .idle → arg.toNat ≤ 0xFFFFF → Accepts (.setPrescaler arg) s)
      ∧ (s.mode = .idle → arg.toNat > 0xFFFFF → TurnedAway (.setPrescaler arg) s)
      ∧ (s.mode = .busy → s.upc = 0#5 →
        (s.pending = none → ∃ u o, exec (.setPrescaler arg) s
          = .next { s with
            pending := some ⟨.prl, s.a⟩, mode := .idle, resp := ⟨0#2, 0#32⟩,
            upc := u, respOutstanding := o })
        ∧ (s.pending ≠ none → ∃ c1 c2 c3 p f u o, exec (.setPrescaler arg) s
          = .next { s with
            viol := true, cnt := c1, alrm := c2, prl := c3, pending := some p, fresh := f,
            mode := .idle, resp := ⟨0#2, 0#32⟩, upc := u, respOutstanding := o }))

/-- `WaitForUpdate` (43_sync_status_ops.md R181): one read completes it when no write is pending;
otherwise the poll step stays. -/
def Obligations.WaitForUpdateOperation : Prop :=
  encode .waitForUpdate = 0xB000000000#40
    ∧ ∀ s : State, s.cfg.wf = true → (s.mode = .idle → Accepts .waitForUpdate s)
      ∧ (s.mode = .busy → s.upc = 0#5 →
        (s.pending = none → ∃ u o, exec .waitForUpdate s
          = .next { s with
            t := readCs s, mode := .idle, resp := ⟨0#2, 0#32⟩, upc := u, respOutstanding := o })
        ∧ (s.pending ≠ none → exec .waitForUpdate s
          = .next { s with t := readCs s, upc := 0#5 }))

/-- `GetFlag` (43_sync_status_ops.md R182): write-enable-complete as the logical "asserted", or the
selected event flag. -/
def Obligations.GetFlagOperation : Prop :=
  encode (.getFlag .wec) = 0xC000000000#40 ∧ encode (.getFlag (.event .ow)) = 0xC000000001#40
    ∧ encode (.getFlag (.event .alr)) = 0xC000000002#40
    ∧ encode (.getFlag (.event .sec)) = 0xC000000003#40
    ∧ ∀ (f : Flag) (s : State), s.cfg.wf = true → (s.mode = .idle → Accepts (.getFlag f) s)
      ∧ (s.a = f.toArg → s.mode = .busy → s.upc = 0#5 → ∃ u o, exec (.getFlag f) s
          = .next { s with
            t := readCs s, mode := .idle,
            resp := ⟨0#2, if (match f with
              | .wec => s.pending.isNone
              | .event .ow => s.flg.ow
              | .event .alr => s.flg.alr
              | .event .sec => s.flg.sec) then 1#32 else 0#32⟩,
            upc := u, respOutstanding := o })

/-- `ClearFlags` (43_sync_status_ops.md R183): the flags of `S` fall, the others stay, the enables are
rewritten with the value read. -/
def Obligations.ClearFlagsOperation : Prop :=
  (∀ set, encode (.clearFlags set) = 0xD0#8 ++ set.toArg)
    ∧ ∀ (set : Events) (s : State), s.cfg.wf = true →
      (s.mode = .idle → Accepts (.clearFlags set) s)
      ∧ (s.mode = .busy → s.upc = 0#5 → exec (.clearFlags set) s
          = .next { s with t := readCs s, upc := 1#5 })
      ∧ (s.a = set.toArg → s.mode = .busy → s.upc = 1#5 → ∃ u o, exec (.clearFlags set) s
          = .next { s with
            flg := ⟨s.flg.ow && !set.ow, s.flg.alr && !set.alr, s.flg.sec && !set.sec⟩,
            ie := ⟨s.t.getLsbD s.cfg.ieOw, s.t.getLsbD s.cfg.ieAlr, s.t.getLsbD s.cfg.ieSec⟩,
            mode := .idle, resp := ⟨0#2, 0#32⟩, upc := u, respOutstanding := o })

/-! ### Acceptance, faults, reset (10_state.md R40 to R43, 60_exceptions.md, 70_reset_and_hazards.md) -/

/-- A configuration is well-formed when the seven clauses of 00_scope.md R7 hold, and the model
refuses any other. -/
def Obligations.IllFormedMapRefused : Prop :=
  ∀ s : State, (s.cfg.wf = true ↔
      (s.cfg.base.toNat % 4 = 0 ∧ s.cfg.base.toNat + 4 * 0x14 + 3 ≤ 0xFFFFFFFF)
      ∧ ((∀ (k : Nat) (h : k < 14), s.cfg.idxBkp[k] = k) ∧ s.cfg.idxCtrl = 0x0E
        ∧ s.cfg.idxCfg = 0x0F
        ∧ [s.cfg.idxCnt, s.cfg.idxDiv, s.cfg.idxPrl, s.cfg.idxAlrm, s.cfg.idxCs].Perm
          [0x10, 0x11, 0x12, 0x13, 0x14])
      ∧ ((∀ p ∈ [s.cfg.srcLsb, s.cfg.calLsb, s.cfg.enBit, s.cfg.rstBit, s.cfg.fOw, s.cfg.fAlr,
          s.cfg.fSec, s.cfg.ieOw, s.cfg.ieAlr, s.cfg.ieSec, s.cfg.wecBit], p ≤ 31)
        ∧ 2 ≤ s.cfg.srcW ∧ s.cfg.srcLsb + s.cfg.srcW ≤ 32 ∧ s.cfg.calLsb + 8 ≤ 32)
      ∧ (s.cfg.srcMask &&& s.cfg.calMask = 0#32 ∧ s.cfg.srcMask &&& s.cfg.enMask = 0#32
        ∧ s.cfg.srcMask &&& s.cfg.rstMask = 0#32 ∧ s.cfg.calMask &&& s.cfg.enMask = 0#32
        ∧ s.cfg.calMask &&& s.cfg.rstMask = 0#32 ∧ s.cfg.enMask &&& s.cfg.rstMask = 0#32)
      ∧ [s.cfg.fOw, s.cfg.fAlr, s.cfg.fSec, s.cfg.ieOw, s.cfg.ieAlr, s.cfg.ieSec,
          s.cfg.wecBit].Nodup
      ∧ ((∀ p q, s.cfg.srcCode p = s.cfg.srcCode q → p = q)
        ∧ ∀ p, (s.cfg.srcCode p).toNat < 2 ^ s.cfg.srcW)
      ∧ ((s.cfg.resetCfg &&& s.cfg.srcMask) >>> s.cfg.srcLsb = s.cfg.srcCode .lsi
        ∧ s.cfg.resetCfg &&& s.cfg.enMask = 0#32))
    ∧ (s.cfg.wf = false → step s = .refused .illFormedCfg
      ∧ ∀ i, exec i s = .refused .illFormedCfg)

/-- Accepting a command (10_state.md R40): an illegal word halts with `ILLEGAL_CMD`, an operand out of
range with `PRECOND_FAIL`, both with nothing else changed; a good command is latched. `inputs` and
`program` are the model's own lists of what the schedule and the host bring (assumption log 5, 7); the
bit "a response is outstanding" is left open (log 18). -/
def Obligations.AcceptingACommand : Prop :=
  ∀ (s : State) (clk : Bool) (rest : List Input) (c : CommandWord) (ps : List CommandWord),
    s.cfg.wf = true → s.mode = .idle → s.inputs = ⟨.controller, clk⟩ :: rest →
    s.program = c :: ps →
    (∀ why, decode c = .illegal why → ∃ o, step s
      = .next { s with
        inputs := rest, program := ps, mode := .halted,
        resp := ⟨2#2, 0#32⟩, respOutstanding := o })
    ∧ (∀ i, decode c = .command i → precond s.cfg i = false → ∃ o, step s
      = .next { s with
        inputs := rest, program := ps, mode := .halted,
        resp := ⟨1#2, 0#32⟩, respOutstanding := o })
    ∧ (∀ i, decode c = .command i → precond s.cfg i = true → ∃ o, step s
      = .next { s with
        inputs := rest, program := ps, mode := .busy, cmd := c,
        a := c.extractLsb' 0 32, b := c.getLsbD 32, upc := 0#5, respOutstanding := o })

/-- The range checks (60_exceptions.md R201): three operations have one, made in the acceptance step
before any bus access; every other command is accepted. -/
def Obligations.RangeChecks : Prop :=
  ∀ (i : Instr) (s : State), s.cfg.wf = true → s.mode = .idle →
    (((∃ arg, i = .setClockSource arg ∧ ∀ src, arg ≠ s.cfg.srcCode src)
        ∨ (∃ arg, i = .setCalibration arg ∧ arg.toNat > 255)
        ∨ ∃ arg, i = .setPrescaler arg ∧ arg.toNat > 0xFFFFF) → TurnedAway i s)
    ∧ (¬((∃ arg, i = .setClockSource arg ∧ ∀ src, arg ≠ s.cfg.srcCode src)
        ∨ (∃ arg, i = .setCalibration arg ∧ arg.toNat > 255)
        ∨ ∃ arg, i = .setPrescaler arg ∧ arg.toNat > 0xFFFFF) → Accepts i s)

/-- A halted controller accepts no command and performs no bus access, and `RESP` keeps the fault
status, in every step but the hardware reset (10_state.md R43, 60_exceptions.md R207). R43 gives a
halted controller no step; that its turn passes instead, leaving everything but the model's own
`inputs` and `fresh`, is the model's choice (assumption log 5, 10). That a read of `RESP` too leaves
all the rest, the bit `respOutstanding` included, follows from neither rule: R44 b lets the host read
and R31 names it the reader of `RESP`, no rule gives the read an effect, and that it has none is the
model's reading (assumption log 8, 18). -/
def Obligations.HaltedUntilHardwareReset : Prop :=
  ∀ s s' : State, s.mode = .halted → step s = .next s' →
    (takeInput s).1.move ≠ .hardwareReset →
    s'.mode = .halted ∧ s'.resp = s.resp ∧ s'.program = s.program ∧ s'.cmd = s.cmd
      ∧ s'.a = s.a ∧ s'.b = s.b ∧ s'.t = s.t ∧ s'.upc = s.upc
      ∧ s'.w = s.w ∧ s'.ie = s.ie ∧ s'.viol = s.viol
      ∧ ((takeInput s).1.move = .controller ∨ (takeInput s).1.move = .readResponse →
        s' = { s with inputs := s'.inputs, fresh := s'.fresh })

/-- A step whose turn is the controller's runs the decoded instruction: in mode IDLE the word the host
presents, which is taken from the program (10_state.md R40, R44); in mode BUSY the word in `CMD` (R41).
Around `exec` the step takes its input and nothing else; the lists `inputs` and `program` are the
model's own (assumption log 5, 7). -/
def Obligations.StepRunsDecoded : Prop :=
  ∀ (s : State) (clk : Bool) (rest : List Input) (i : Instr),
    s.cfg.wf = true → s.inputs = ⟨.controller, clk⟩ :: rest →
    (∀ c ps, s.mode = .idle → s.program = c :: ps → decode c = .command i →
      step s = exec i { s with inputs := rest, program := ps })
    ∧ (s.mode = .busy → decode s.cmd = .command i → step s = exec i { s with inputs := rest })

/-- The hardware reset (70_reset_and_hazards.md R230): from any state, mode IDLE, the latches
unspecified, no response outstanding, the register block untouched. Where the schedule stands
(`inputs`) is the model's own (assumption log 5). -/
def Obligations.HardwareResetStep : Prop :=
  ∀ (s : State) (clk : Bool) (rest : List Input), s.cfg.wf = true →
    s.inputs = ⟨.hardwareReset, clk⟩ :: rest →
    ∃ c a b t u r f, step s = .next { s with
      inputs := rest, mode := .idle, cmd := c, a := a,
      b := b, t := t, upc := u, resp := r, respOutstanding := false, fresh := f }

/-- The cold start (70_reset_and_hazards.md R231): the controller as after a hardware reset, `viol` 0,
the register block unspecified; the configuration and the host's words stay (the model's choice,
assumption log 17). -/
def Obligations.ColdStartClearsViolation : Prop :=
  ∀ s : State, (coldStart s).mode = .idle ∧ (coldStart s).respOutstanding = false
    ∧ (coldStart s).viol = false ∧ (coldStart s).cfg = s.cfg
    ∧ (coldStart s).program = s.program ∧ (coldStart s).inputs = s.inputs

/-- The values 10_state.md R36 gives after reset: mode IDLE, no response outstanding, `viol` 0; and
the default register map (PRESUMED, assumption log 2) is well-formed. -/
def Obligations.StateAfterReset : Prop :=
  State.reset.mode = .idle ∧ State.reset.respOutstanding = false ∧ State.reset.viol = false
    ∧ State.reset.cfg.wf = true

/-! ### The register bus (20_memory.md) -/

/-- A write to a plain word stores all 32 bits at once: the word reads back, every other plain word
reads as before, nothing else changes (20_memory.md R63, R64). -/
def Obligations.PlainWordAccess : Prop :=
  ∀ (s : State) (i : Nat) (v : Word) (h : i < 16),
    regWrite i v s = .next { s with w := s.w.set i v }
      ∧ regRead i { s with w := s.w.set i v } = .next (v, { s with w := s.w.set i v })
      ∧ ∀ (j : Nat) (h2 : j < 16), j ≠ i →
        regRead j { s with w := s.w.set i v } = .next (s.w[j], { s with w := s.w.set i v })

/-- A write to a synchronized register: accepted into the empty pending slot (20_memory.md R65); while
a write is pending, a violation that leaves the three committed values and the pending entry free,
still pending, and changes nothing else (R66). -/
def Obligations.SynchronizedWrite : Prop :=
  ∀ (s : State) (x : Synced) (v : Word), s.cfg.wf = true →
    (s.pending = none →
      regWrite (syncedIdx s.cfg x) v s = .next { s with pending := some ⟨x, v⟩ })
    ∧ (s.pending ≠ none → ∃ c1 c2 c3 p f, regWrite (syncedIdx s.cfg x) v s
      = .next { s with
        viol := true, cnt := c1, alrm := c2, prl := c3, pending := some p, fresh := f })

/-- A read of a synchronized register (20_memory.md R68). -/
def Obligations.SynchronizedRead : Prop :=
  ∀ (s : State) (x : Synced), s.cfg.wf = true →
    ((∀ v, s.pending ≠ some ⟨x, v⟩) →
      regRead (syncedIdx s.cfg x) s = .next (committed s x, s))
    ∧ (∀ v, s.pending = some ⟨x, v⟩ → s.cfg.pendingRead = .old →
      regRead (syncedIdx s.cfg x) s = .next (committed s x, s))
    ∧ (∀ v, s.pending = some ⟨x, v⟩ → s.cfg.pendingRead = .new →
      regRead (syncedIdx s.cfg x) s = .next (v, s))
    ∧ (∀ v, s.pending = some ⟨x, v⟩ → s.cfg.pendingRead = .either →
      ∃ r f, (r = committed s x ∨ r = v)
        ∧ regRead (syncedIdx s.cfg x) s = .next (r, { s with fresh := f }))

/-- A write to `RTC_DIV` changes nothing, not even `P` or `viol` (20_memory.md R69), and a read returns
`DIV`. -/
def Obligations.DividerIsReadOnly : Prop :=
  ∀ (s : State) (v : Word), s.cfg.wf = true →
    regWrite s.cfg.idxDiv v s = .next s ∧ regRead s.cfg.idxDiv s = .next (s.div, s)

/-- A read of `RTC_CS`, bit by bit (20_memory.md R70): three flags, three enables,
write-enable-complete by its level, every other bit 0; the read changes nothing. -/
def Obligations.StatusWordRead : Prop :=
  ∀ s : State, s.cfg.wf = true → ∃ r : Word, regRead s.cfg.idxCs s = .next (r, s)
    ∧ r.getLsbD s.cfg.fOw = s.flg.ow ∧ r.getLsbD s.cfg.fAlr = s.flg.alr
    ∧ r.getLsbD s.cfg.fSec = s.flg.sec ∧ r.getLsbD s.cfg.ieOw = s.ie.ow
    ∧ r.getLsbD s.cfg.ieAlr = s.ie.alr ∧ r.getLsbD s.cfg.ieSec = s.ie.sec
    ∧ (s.pending = none → r.getLsbD s.cfg.wecBit = s.cfg.wecLevel)
    ∧ (s.pending ≠ none → r.getLsbD s.cfg.wecBit = !s.cfg.wecLevel)
    ∧ ∀ p, p ≠ s.cfg.fOw → p ≠ s.cfg.fAlr → p ≠ s.cfg.fSec → p ≠ s.cfg.ieOw →
      p ≠ s.cfg.ieAlr → p ≠ s.cfg.ieSec → p ≠ s.cfg.wecBit → r.getLsbD p = false

/-- A write to `RTC_CS` (20_memory.md R71): a 1 at a flag clears it, a 0 leaves it, the enables take
the written bits, everything else is ignored. -/
def Obligations.StatusWordWrite : Prop :=
  ∀ (s : State) (v : Word), s.cfg.wf = true →
    regWrite s.cfg.idxCs v s = .next { s with
      flg := ⟨if v.getLsbD s.cfg.fOw then false else s.flg.ow,
        if v.getLsbD s.cfg.fAlr then false else s.flg.alr,
        if v.getLsbD s.cfg.fSec then false else s.flg.sec⟩,
      ie := ⟨v.getLsbD s.cfg.ieOw, v.getLsbD s.cfg.ieAlr, v.getLsbD s.cfg.ieSec⟩ }

/-- Raw bus accesses by byte address (00_scope.md R10, 20_memory.md R61): an aligned 32-bit access of
a word of the block is the access by index; any other is refused. -/
def Obligations.RawBusAccess : Prop :=
  ∀ (s : State) (v : Word), s.cfg.wf = true →
    (∀ i, i ≤ 0x14 → memRead (s.cfg.base + BitVec.ofNat 32 (4 * i)) 4 s = regRead i s
      ∧ memWrite (s.cfg.base + BitVec.ofNat 32 (4 * i)) 4 v s = regWrite i v s)
    ∧ ∀ (addr : BitVec 32) (n : Nat),
      (n ≠ 4 ∨ ∀ i, i ≤ 0x14 → addr ≠ s.cfg.base + BitVec.ofNat 32 (4 * i)) →
      memRead addr n s = .refused .badAccess ∧ memWrite addr n v s = .refused .badAccess

/-- The step of `Sync` (20_memory.md R67): with a write pending and the RTC clock running it commits
the value and empties the slot; otherwise it has no step, and the turn passes with no effect (the
model's choice, assumption log 5). -/
def Obligations.SyncCommits : Prop :=
  ∀ (s : State) (clk : Bool) (rest : List Input), s.cfg.wf = true →
    s.inputs = ⟨.sync, clk⟩ :: rest →
    (∀ x v, s.pending = some ⟨x, v⟩ → clk = true → step s = .next { s with
      inputs := rest, pending := none,
      cnt := if x = .cnt then v else s.cnt,
      alrm := if x = .alrm then v else s.alrm,
      prl := if x = .prl then v else s.prl })
    ∧ (s.pending = none ∨ clk = false → step s = .next { s with inputs := rest })

/-- The step of `RtcCore` (20_memory.md R72): it may set the counter, the divider and event flags; it
clears no flag and changes nothing else. Where the schedule stands (`inputs`) is the model's own
(assumption log 5). -/
def Obligations.RtcCoreChangesOnly : Prop :=
  ∀ (s : State) (m : RtcMove) (clk : Bool) (rest : List Input), s.cfg.wf = true →
    s.inputs = ⟨.rtcCore m, clk⟩ :: rest →
    ∃ s', step s = .next s'
      ∧ s' = { s with inputs := rest, cnt := s'.cnt, div := s'.div, flg := s'.flg }
      ∧ (∀ v, m.cnt = some v → s'.cnt = v) ∧ (m.cnt = none → s'.cnt = s.cnt)
      ∧ (∀ v, m.div = some v → s'.div = v) ∧ (m.div = none → s'.div = s.div)
      ∧ ∀ e, s'.flg.has e = true ↔ s.flg.has e = true ∨ m.raised.has e = true

/-- The interrupt request line (10_state.md R33). -/
def Obligations.InterruptRequestLine : Prop :=
  ∀ s : State, irq s = true ↔ ∃ e, s.flg.has e = true ∧ s.ie.has e = true

/-! ### Bit fields (41_config_field_ops.md) -/

/-- The bit-field laws (41_config_field_ops.md R141): an insert reads back and changes no other bit;
setting or clearing a bit changes no other bit. -/
def Obligations.FieldInsertLaws : Prop :=
  (∀ (w p : Nat) (t a : Word), a.toNat < 2 ^ w → p + w ≤ 32 →
    (insertField (fieldMask w p) p t a &&& fieldMask w p) >>> p = a
      ∧ insertField (fieldMask w p) p t a &&& ~~~fieldMask w p = t &&& ~~~fieldMask w p)
  ∧ ∀ (p : Nat) (t : Word) (on : Bool), p < 32 →
    (setOrClear on (bit p) t).getLsbD p = on
      ∧ ∀ i, i ≠ p → (setOrClear on (bit p) t).getLsbD i = t.getLsbD i

/-- Two operations on different fields of `REG_0F`, run one after another from an idle controller, leave
the same plain words in either order (41_config_field_ops.md R145 c). -/
def Obligations.ConfigOperationsCommute : Prop :=
  ∀ (i j : Instr) (s : State), s.cfg.wf = true → s.mode = .idle → IsConfigOp i → IsConfigOp j →
    opcodeOf i ≠ opcodeOf j → precond s.cfg i = true → precond s.cfg j = true →
    ∃ si sij sj sji, runAlone i 3 s = .next si ∧ runAlone j 3 si = .next sij
      ∧ runAlone j 3 s = .next sj ∧ runAlone i 3 sj = .next sji
      ∧ sij.mode = .idle ∧ sji.mode = .idle ∧ sij.w = sji.w

/-! ### The micro-step frame (10_state.md R32, R41, R42) -/

/-- Every micro-step moves `upc` on by exactly 1, but the poll step of `WaitForUpdate`, which leaves
it at 0 while a write is pending (10_state.md R32, R41); `upc` never wraps. That the completing
micro-step moves it too, so that `Reset` leaves it at 24, is the model's choice between R32's two
sentences (assumption log 11). -/
def Obligations.MicroStepCounter : Prop :=
  ∀ (i : Instr) (s s' : State), s.cfg.wf = true → Executing i s → exec i s = .next s' →
    if i = .waitForUpdate ∧ s.pending ≠ none then s'.upc = 0#5
    else s'.upc.toNat = s.upc.toNat + 1

/-- A micro-step is answered with a next state always; it completes with `OK` exactly at the last
micro-step, for `WaitForUpdate` exactly when no write is pending, and otherwise the controller stays
busy with the same command and posts no response (10_state.md R41, R42). That a posted response is
then outstanding is the model's reading (assumption log 18). -/
def Obligations.CompletesAtLastMicroStep : Prop :=
  ∀ (i : Instr) (s : State), s.cfg.wf = true → Executing i s → ∃ s', exec i s = .next s'
    ∧ (if s.upc.toNat + 1 = microCount i ∧ (i = .waitForUpdate → s.pending = none) then
        s'.mode = .idle ∧ s'.resp.status = 0#2 ∧ s'.respOutstanding = true
          ∧ (i ≠ .getCounter → i ≠ .getDivider → (∀ f, i ≠ .getFlag f) → s'.resp.data = 0#32)
      else Executing i s' ∧ s'.resp = s.resp ∧ s'.respOutstanding = s.respOutstanding)

/-! ### Invariants and rules of the whole machine -/

/-- The invariant holds after reset. -/
def Obligations.InvAtReset : Prop := Inv State.reset

/-- Every step keeps the invariant (10_state.md R37 c): from any state that meets it, whichever agent
moves. That `A` and `B` hold the command's fields is R40's, read with it. -/
def Obligations.InvKeptByEveryStep : Prop :=
  ∀ s s' : State, Inv s → step s = .next s' → Inv s'

/-- From a state that meets the invariant the machine never stops: every step answers a next state
(10_state.md R37; a halt and a hang are next states). Where the agent whose turn it is has no step
(a disabled `Sync`, R67; a controller with no word, R40, or halted, R43), the next state is the passed
turn, the model's choice (assumption log 5, 10). -/
def Obligations.MachineNeverStops : Prop := ∀ s : State, Inv s → ∃ s', step s = .next s'

/-- `viol`, once 1, stays 1 (10_state.md R30, R37 d), and it rises only in a controller step made while
a write is pending (20_memory.md R66). -/
def Obligations.ViolationMarkSticky : Prop :=
  ∀ s s' : State, step s = .next s' →
    (s.viol = true → s'.viol = true)
      ∧ (s.viol = false → s'.viol = true →
        (takeInput s).1.move = .controller ∧ s.mode = .busy ∧ s.pending ≠ none)

/-- No rule reads the ghost mark (10_state.md R30): two runs of one step that differ only in `viol`
answer the same but for `viol`. -/
def Obligations.ViolationMarkNeverRead : Prop :=
  ∀ (s : State) (b : Bool), forgetViol (step { s with viol := b }) = forgetViol (step s)

/-- Only `RtcCore` raises an event flag, and a flag falls only in a micro-step of `ClearFlags`
(20_memory.md R71, R72; 10_state.md R28; 43_sync_status_ops.md R184 d). -/
def Obligations.OnlyRtcCoreRaisesFlags : Prop :=
  ∀ (s s' : State) (e : Event), step s = .next s' →
    (s.flg.has e = false → s'.flg.has e = true → ∃ m, (takeInput s).1.move = .rtcCore m)
      ∧ (s.flg.has e = true → s'.flg.has e = false →
        (takeInput s).1.move = .controller ∧ s.mode = .busy
          ∧ ∃ set, decode s.cmd = .command (.clearFlags set))

/-- Write-enable-complete rises only by a commit of `Sync` with the RTC clock running, and falls only
in a micro-step of `SetCounter`, `SetAlarm`, `SetPrescaler` or `Reset` (10_state.md R28, R29;
20_memory.md R65, R67). -/
def Obligations.WriteEnableCompleteMoves : Prop :=
  ∀ s s' : State, step s = .next s' →
    (s.pending ≠ none → s'.pending = none → (takeInput s).1 = ⟨.sync, true⟩)
      ∧ (s.pending = none → s'.pending ≠ none →
        (takeInput s).1.move = .controller ∧ s.mode = .busy
          ∧ (decode s.cmd = .command .reset ∨ ∃ v, decode s.cmd = .command (.setCounter v)
            ∨ decode s.cmd = .command (.setAlarm v) ∨ decode s.cmd = .command (.setPrescaler v)))

/-- A plain word changes only in a micro-step of `Reset` or, `REG_0F` alone, of an operation of the
configuration family; no hardware agent changes one (10_state.md R21, R22, R23). -/
def Obligations.PlainWordWriters : Prop :=
  ∀ (s s' : State) (k : Fin 16), step s = .next s' → s'.w[k] ≠ s.w[k] →
    (takeInput s).1.move = .controller ∧ s.mode = .busy
      ∧ (decode s.cmd = .command .reset
        ∨ (k = 15 ∧ ∃ i, decode s.cmd = .command i ∧ (configResult s.cfg 0#32 i).isSome = true))

/-- The alarm and the reload value change only by the commit of a pending write to them or by a
violation: a micro-step of an operation that writes a synchronized register, made while a write is
pending (10_state.md R25, R26; 20_memory.md R66, R67, R72). -/
def Obligations.AlarmAndReloadWriters : Prop :=
  ∀ s s' : State, step s = .next s' →
    (s'.alrm ≠ s.alrm → ((takeInput s).1 = ⟨.sync, true⟩ ∧ s.pending = some ⟨.alrm, s'.alrm⟩)
      ∨ ((takeInput s).1.move = .controller ∧ WritesSynchronized s ∧ s.pending ≠ none
        ∧ s'.viol = true))
    ∧ (s'.prl ≠ s.prl → ((takeInput s).1 = ⟨.sync, true⟩ ∧ s.pending = some ⟨.prl, s'.prl⟩)
      ∨ ((takeInput s).1.move = .controller ∧ WritesSynchronized s ∧ s.pending ≠ none
        ∧ s'.viol = true))

/-! ### Operations under every schedule -/

/-- An operation on `REG_0F` from acceptance to response with no other agent between: it leaves the
formula of its rule in `REG_0F`, answers `(OK, 0)`, and changes nothing else but the latches
(41_config_field_ops.md R140, R142, R143, R144). `upc` 2 and the outstanding response are
the model's (assumption log 11, 18). -/
def Obligations.ConfigOperationAlone : Prop :=
  ∀ (i : Instr) (s : State) (new : Word), s.cfg.wf = true → s.mode = .idle →
    precond s.cfg i = true → configResult s.cfg s.w[0x0F] i = some new →
    runAlone i 3 s = .next { s with
      cmd := encode i, a := argOf i, b := enOf i, t := s.w[0x0F], upc := 2#5,
      w := s.w.set 0x0F new, resp := ⟨0#2, 0#32⟩, respOutstanding := true }

/-- `SetInterrupts` and `ClearFlags` from acceptance to response with no other agent between: the
enables and flags their rules give, nothing else but the latches (43_sync_status_ops.md R180,
R183). `upc` 2 and the outstanding response are
the model's (assumption log 11, 18). -/
def Obligations.StatusOperationAlone : Prop :=
  ∀ (i : Instr) (s : State) (new : Events), s.cfg.wf = true → s.mode = .idle →
    enablesResult s.ie i = some new →
    runAlone i 3 s = .next { s with
      cmd := encode i, a := argOf i, b := enOf i, t := readCs s, upc := 2#5,
      ie := new, flg := s.flg.minus (clearTargets i),
      resp := ⟨0#2, 0#32⟩, respOutstanding := true }

/-- The read-modify-write of `REG_0F` is safe under every schedule of the hardware agents
(41_config_field_ops.md R145 d, 20_memory.md R75 a): a step leaves it under way from the same word,
or completes it with the formula of its rule, or is the hardware reset, which writes nothing
(70_reset_and_hazards.md R230). -/
def Obligations.ConfigOperationUnderEverySchedule : Prop :=
  ∀ (i : Instr) (old new : Word) (s s' : State), configResult s.cfg old i = some new →
    ConfigUnderWay old i s → step s = .next s' →
    (ConfigUnderWay old i s' ∧ s'.w = s.w)
      ∨ (s'.mode = .idle ∧ s'.resp = ⟨0#2, 0#32⟩ ∧ s'.w = s.w.set 0x0F new)
      ∨ ((takeInput s).1.move = .hardwareReset ∧ s'.mode = .idle ∧ s'.w = s.w)

/-- The read-modify-write of `RTC_CS` is safe under every schedule (20_memory.md R75 b): no enable
outside the operand is lost, and a flag raised in the window is lost only if the operation clears
it. -/
def Obligations.StatusOperationUnderEverySchedule : Prop :=
  ∀ (i : Instr) (old new : Events) (s s' : State), enablesResult old i = some new →
    StatusUnderWay old i s → step s = .next s' →
    (StatusUnderWay old i s' ∧ ∀ e, s.flg.has e = true → s'.flg.has e = true)
      ∨ (s'.mode = .idle ∧ s'.resp = ⟨0#2, 0#32⟩ ∧ s'.ie = new
        ∧ s'.flg = s.flg.minus (clearTargets i))
      ∨ ((takeInput s).1.move = .hardwareReset ∧ s'.mode = .idle ∧ s'.ie = old ∧ s'.flg = s.flg)

/-- `Reset` under every schedule (40_bulk_reset.md R130, R131 a, b, e, f): accepted, it is under way
from the control word at acceptance; each step leaves it under way from that word, or completes it
with what R131 says it leaves, or is the hardware reset; and no step of it clears an event flag. -/
def Obligations.ResetUnderEverySchedule : Prop :=
  (∀ s : State, s.cfg.wf = true → s.mode = .idle →
    ∃ s', exec .reset s = .next s' ∧ ResetUnderWay s.w[0x0E] s')
  ∧ ∀ (old : Word) (s s' : State), ResetUnderWay old s → step s = .next s' →
    (∀ e, s.flg.has e = true → s'.flg.has e = true)
      ∧ (ResetUnderWay old s' ∨ ResetLeft old s'
        ∨ ((takeInput s).1.move = .hardwareReset ∧ s'.mode = .idle ∧ s'.w = s.w))

/-- A `WaitForUpdate` with a write pending and the RTC clock stopped never ends: under every schedule
without a hardware reset the controller keeps polling (60_exceptions.md R204, 43_sync_status_ops.md
R181). A schedule may give `Sync` a turn while the clock stands still: R67 gives it no step there, and
the model passes the turn (its choice, assumption log 5). -/
def Obligations.PollHangsWithoutClock : Prop :=
  ∀ (ins : List Input) (s : State) (p : Pending), s.cfg.wf = true → Executing .waitForUpdate s →
    s.pending = some p → ClockStopped ins → NoHardwareReset ins →
    ∃ s', runSchedule ins s = .next s' ∧ Executing .waitForUpdate s' ∧ s'.pending = some p
      ∧ s'.resp = s.resp

/-- `WaitForUpdate` is the fence (20_memory.md R73 a, R74; 43_sync_status_ops.md R181): after any
stretch without the clock, one commit of `Sync` and any moves of other agents, the next poll responds
`OK`, and the register of the pending write holds the written value; for the counter, if `RtcCore` did
not move after the commit. A disabled `Sync` given a turn in either stretch passes it (the model's
choice, assumption log 5), and the needed turns are hypotheses on the schedule (log 6); that a fair run
brings them is `PendingWriteClears` and `FairRunsComplete`. -/
def Obligations.PollReturnsAfterCommit : Prop :=
  ∀ (before after : List Input) (clk : Bool) (s : State) (p : Pending), s.cfg.wf = true →
    Executing .waitForUpdate s → s.pending = some p →
    ClockStopped before → NoHardwareReset before →
    NoHardwareReset after → (∀ i ∈ after, i.move ≠ .controller) →
    (p.reg = .cnt → RtcQuiescent after) →
    ∃ s', runSchedule (before ++ [⟨.sync, true⟩] ++ after ++ [⟨.controller, clk⟩]) s = .next s'
      ∧ s'.mode = .idle ∧ s'.resp = ⟨0#2, 0#32⟩ ∧ s'.pending = none
      ∧ committed s' p.reg = p.val ∧ s'.viol = s.viol

/-! ### Fair runs (20_memory.md R67, 70_reset_and_hazards.md R244) -/

/-- A pending write always eventually clears once the RTC clock runs (20_memory.md R67), in every fair
run and whatever the controller and the host do. That fairness is a condition on infinite runs, beside
the step, is the model's form of it (assumption log 6); a disabled agent's turn passes (log 5). -/
def Obligations.PendingWriteClears : Prop :=
  ∀ (σ : Nat → Input) (r : Nat → State) (n : Nat), IsRun σ r → SyncFair σ r → ClockRuns σ →
    (r n).pending ≠ none → ∃ m, n < m ∧ (r m).pending = none

/-- Every operation under way completes with `OK` in every fair run without a hardware reset:
`WaitForUpdate` if the RTC clock runs from some point on, and then with no write pending; every other
operation with no premise on the clock (43_sync_status_ops.md R181, 10_state.md R42, 40_bulk_reset.md
R130). That fairness is a condition on infinite runs, beside the step, is the model's form of it
(assumption log 6); a disabled agent's turn passes (log 5). -/
def Obligations.FairRunsComplete : Prop :=
  ∀ (σ : Nat → Input) (r : Nat → State) (i : Instr), FairRun σ r → Executing i (r 0) →
    (∀ n, (σ n).move ≠ .hardwareReset) → (i = .waitForUpdate → ClockRuns σ) →
    ∃ n, (r n).mode = .idle ∧ (r n).resp.status = 0#2
      ∧ (i = .waitForUpdate → (r n).resp = ⟨0#2, 0#32⟩ ∧ (r n).pending = none)
end

