-- ==== Sys2Proof/Laws/Operands.lean ====
section
/-!
SUPPORT. What a well-formed configuration gives (00_scope.md R7), one lemma per fact later proofs
use, and what single bits and masks hold.
-/

namespace Sys2Proof

variable {c : Cfg}

/-- The seven clauses of 00_scope.md R7. -/
theorem Cfg.wf_iff : c.wf = true ↔
    c.wfBase = true ∧ c.wfIndices = true ∧ c.wfPositions = true ∧ c.wfDisjoint = true
      ∧ c.wfStatusBits = true ∧ c.wfCodes = true ∧ c.wfResetCfg = true := by
  simp [Cfg.wf, and_assoc]

theorem Cfg.wf_idxCtrl (h : c.wf = true) : c.idxCtrl = 0x0E := by
  have := (Cfg.wf_iff.1 h).2.1
  simp only [Cfg.wfIndices, Bool.and_eq_true, decide_eq_true_eq] at this
  exact this.1.1.1.2

theorem Cfg.wf_idxCfg (h : c.wf = true) : c.idxCfg = 0x0F := by
  have := (Cfg.wf_iff.1 h).2.1
  simp only [Cfg.wfIndices, Bool.and_eq_true, decide_eq_true_eq] at this
  exact this.1.1.2

/-- The five RTC registers lie at 0x10 to 0x14, each at an index of its own (00_scope.md R7 b). -/
theorem Cfg.wf_rtc (h : c.wf = true) :
    (0x10 ≤ c.idxCnt ∧ c.idxCnt ≤ 0x14) ∧ (0x10 ≤ c.idxDiv ∧ c.idxDiv ≤ 0x14)
      ∧ (0x10 ≤ c.idxPrl ∧ c.idxPrl ≤ 0x14) ∧ (0x10 ≤ c.idxAlrm ∧ c.idxAlrm ≤ 0x14)
      ∧ (0x10 ≤ c.idxCs ∧ c.idxCs ≤ 0x14)
      ∧ c.idxCnt ≠ c.idxDiv ∧ c.idxCnt ≠ c.idxPrl ∧ c.idxCnt ≠ c.idxAlrm ∧ c.idxCnt ≠ c.idxCs
      ∧ c.idxDiv ≠ c.idxPrl ∧ c.idxDiv ≠ c.idxAlrm ∧ c.idxDiv ≠ c.idxCs
      ∧ c.idxPrl ≠ c.idxAlrm ∧ c.idxPrl ≠ c.idxCs ∧ c.idxAlrm ≠ c.idxCs := by
  have := (Cfg.wf_iff.1 h).2.1
  simp only [Cfg.wfIndices, Bool.and_eq_true, decide_eq_true_eq, List.all_cons, List.all_nil,
    List.nodup_cons, List.mem_cons, List.not_mem_nil, not_or, or_false, not_false_eq_true,
    List.nodup_nil, and_true, Bool.and_true] at this
  omega

/-- Bit positions lie in 0 to 31 (00_scope.md R7 c). -/
theorem Cfg.wf_le31 (h : c.wf = true) :
    c.srcLsb ≤ 31 ∧ c.calLsb ≤ 31 ∧ c.enBit ≤ 31 ∧ c.rstBit ≤ 31 ∧ c.fOw ≤ 31 ∧ c.fAlr ≤ 31
      ∧ c.fSec ≤ 31 ∧ c.ieOw ≤ 31 ∧ c.ieAlr ≤ 31 ∧ c.ieSec ≤ 31 ∧ c.wecBit ≤ 31 := by
  have := (Cfg.wf_iff.1 h).2.2.1
  simp only [Cfg.wfPositions, Bool.and_eq_true, decide_eq_true_eq, List.all_cons, List.all_nil,
    Bool.and_true] at this
  omega

/-- The two fields of `REG_0F` fit in the word (00_scope.md R7 c). -/
theorem Cfg.wf_widths (h : c.wf = true) :
    2 ≤ c.srcW ∧ c.srcLsb + c.srcW ≤ 32 ∧ c.calLsb + 8 ≤ 32 := by
  have := (Cfg.wf_iff.1 h).2.2.1
  simp only [Cfg.wfPositions, Bool.and_eq_true, decide_eq_true_eq] at this
  exact ⟨this.1.1.2, this.1.2, this.2⟩

/-- The seven positions of `RTC_CS` differ pairwise (00_scope.md R7 e). -/
theorem Cfg.wf_status (h : c.wf = true) :
    [c.fOw, c.fAlr, c.fSec, c.ieOw, c.ieAlr, c.ieSec, c.wecBit].Nodup := by
  simpa [Cfg.wfStatusBits] using (Cfg.wf_iff.1 h).2.2.2.2.1

/-- The seven positions of `RTC_CS` differ pairwise (00_scope.md R7 e), pair by pair. -/
theorem Cfg.wf_ne (h : c.wf = true) :
    c.fOw ≠ c.fAlr ∧ c.fOw ≠ c.fSec ∧ c.fOw ≠ c.ieOw ∧ c.fOw ≠ c.ieAlr
      ∧ c.fOw ≠ c.ieSec ∧ c.fOw ≠ c.wecBit ∧ c.fAlr ≠ c.fSec ∧ c.fAlr ≠ c.ieOw
      ∧ c.fAlr ≠ c.ieAlr ∧ c.fAlr ≠ c.ieSec ∧ c.fAlr ≠ c.wecBit ∧ c.fSec ≠ c.ieOw
      ∧ c.fSec ≠ c.ieAlr ∧ c.fSec ≠ c.ieSec ∧ c.fSec ≠ c.wecBit ∧ c.ieOw ≠ c.ieAlr
      ∧ c.ieOw ≠ c.ieSec ∧ c.ieOw ≠ c.wecBit ∧ c.ieAlr ≠ c.ieSec ∧ c.ieAlr ≠ c.wecBit
      ∧ c.ieSec ≠ c.wecBit := by
  have := Cfg.wf_status h
  simp only [List.nodup_cons, List.mem_cons, List.not_mem_nil, not_or, or_false,
    not_false_eq_true, List.nodup_nil, and_true, and_assoc] at this
  exact this

/-- Bit positions are below 32 (00_scope.md R7 c). -/
theorem Cfg.wf_lt32 (h : c.wf = true) :
    c.srcLsb < 32 ∧ c.calLsb < 32 ∧ c.enBit < 32 ∧ c.rstBit < 32 ∧ c.fOw < 32 ∧ c.fAlr < 32
      ∧ c.fSec < 32 ∧ c.ieOw < 32 ∧ c.ieAlr < 32 ∧ c.ieSec < 32 ∧ c.wecBit < 32 := by
  have := Cfg.wf_le31 h
  omega

/-- The four source codes fit in the source field (00_scope.md R7 f). -/
theorem Cfg.wf_codes (h : c.wf = true) :
    c.codeLsi.toNat < 2 ^ c.srcW ∧ c.codeLse.toNat < 2 ^ c.srcW
      ∧ c.codeHsi.toNat < 2 ^ c.srcW ∧ c.codeHse.toNat < 2 ^ c.srcW := by
  have := (Cfg.wf_iff.1 h).2.2.2.2.2.1
  simp only [Cfg.wfCodes, Bool.and_eq_true, decide_eq_true_eq, List.all_cons, List.all_nil,
    Bool.and_true] at this
  exact this.2

/-- The base address is a multiple of 4 and the block does not wrap (00_scope.md R7 a). -/
theorem Cfg.wf_base (h : c.wf = true) :
    c.base.toNat % 4 = 0 ∧ c.base.toNat + 4 * 0x14 + 3 ≤ 0xFFFFFFFF := by
  simpa [Cfg.wfBase] using (Cfg.wf_iff.1 h).1

/-- Bit `i` of `1 << p`. -/
@[simp] theorem getLsbD_bit (p i : Nat) : (bit p).getLsbD i = decide (i = p ∧ i < 32) := by
  rw [bit, BitVec.getLsbD_shiftLeft, BitVec.getLsbD_one]
  by_cases h : i < 32 <;> by_cases h2 : i < p <;> simp [h, h2] <;> omega

/-- Bit `i` of `F(S)` (00_scope.md R6). -/
theorem getLsbD_flagMask (s : Events) (i : Nat) :
    (c.flagMask s).getLsbD i = ((s.ow && decide (i = c.fOw ∧ i < 32))
      || (s.alr && decide (i = c.fAlr ∧ i < 32)) || (s.sec && decide (i = c.fSec ∧ i < 32))) := by
  cases s with
  | mk a b d => cases a <;> cases b <;> cases d <;> simp [Cfg.flagMask]

/-- Bit `i` of `IE(S)` (00_scope.md R6). -/
theorem getLsbD_enableMask (s : Events) (i : Nat) :
    (c.enableMask s).getLsbD i = ((s.ow && decide (i = c.ieOw ∧ i < 32))
      || (s.alr && decide (i = c.ieAlr ∧ i < 32)) || (s.sec && decide (i = c.ieSec ∧ i < 32))) := by
  cases s with
  | mk a b d => cases a <;> cases b <;> cases d <;> simp [Cfg.enableMask]

/-- The flag positions differ pairwise (00_scope.md R7 e). -/
theorem Cfg.flagBit_inj (h : c.wf = true) (e f : Event) :
    c.flagBit e = c.flagBit f ↔ e = f := by
  obtain ⟨n0, n1, n2, n3, n4, n5, n6, n7, n8, n9, n10,
    n11, n12, n13, n14, n15, n16, n17, n18, n19, n20⟩ := Cfg.wf_ne h
  cases e <;> cases f <;> first
    | exact iff_of_true rfl rfl
    | exact iff_of_false (by assumption) (by decide)
    | exact iff_of_false (Ne.symm (by assumption)) (by decide)

/-- The enable positions differ pairwise (00_scope.md R7 e). -/
theorem Cfg.enableBit_inj (h : c.wf = true) (e f : Event) :
    c.enableBit e = c.enableBit f ↔ e = f := by
  obtain ⟨n0, n1, n2, n3, n4, n5, n6, n7, n8, n9, n10,
    n11, n12, n13, n14, n15, n16, n17, n18, n19, n20⟩ := Cfg.wf_ne h
  cases e <;> cases f <;> first
    | exact iff_of_true rfl rfl
    | exact iff_of_false (by assumption) (by decide)
    | exact iff_of_false (Ne.symm (by assumption)) (by decide)

/-- No flag lies at an enable (00_scope.md R7 e). -/
theorem Cfg.flagBit_ne_enableBit (h : c.wf = true) (e f : Event) :
    c.flagBit e ≠ c.enableBit f := by
  obtain ⟨n0, n1, n2, n3, n4, n5, n6, n7, n8, n9, n10,
    n11, n12, n13, n14, n15, n16, n17, n18, n19, n20⟩ := Cfg.wf_ne h
  cases e <;> cases f <;> assumption

/-- No flag lies at `WEC_BIT` (00_scope.md R7 e). -/
theorem Cfg.flagBit_ne_wecBit (h : c.wf = true) (e : Event) : c.flagBit e ≠ c.wecBit := by
  obtain ⟨n0, n1, n2, n3, n4, n5, n6, n7, n8, n9, n10,
    n11, n12, n13, n14, n15, n16, n17, n18, n19, n20⟩ := Cfg.wf_ne h
  cases e <;> assumption

/-- No enable lies at `WEC_BIT` (00_scope.md R7 e). -/
theorem Cfg.enableBit_ne_wecBit (h : c.wf = true) (e : Event) : c.enableBit e ≠ c.wecBit := by
  obtain ⟨n0, n1, n2, n3, n4, n5, n6, n7, n8, n9, n10,
    n11, n12, n13, n14, n15, n16, n17, n18, n19, n20⟩ := Cfg.wf_ne h
  cases e <;> assumption

theorem flagBit_lt (h : c.wf = true) (e : Event) : c.flagBit e < 32 := by
  have := Cfg.wf_lt32 h
  cases e <;> simp [Cfg.flagBit, this]

theorem enableBit_lt (h : c.wf = true) (e : Event) : c.enableBit e < 32 := by
  have := Cfg.wf_lt32 h
  cases e <;> simp [Cfg.enableBit, this]

/-- A bit of `F(S)` is that of a member of `S` (00_scope.md R6). -/
theorem flagMask_iff (h : c.wf = true) (s : Events) (i : Nat) :
    (c.flagMask s).getLsbD i = true ↔ ∃ e, s.has e = true ∧ i = c.flagBit e := by
  rw [getLsbD_flagMask]
  simp only [Bool.or_eq_true, Bool.and_eq_true, decide_eq_true_eq]
  constructor
  · rintro ((⟨h1, h2, -⟩ | ⟨h1, h2, -⟩) | ⟨h1, h2, -⟩)
    · exact ⟨.ow, h1, h2⟩
    · exact ⟨.alr, h1, h2⟩
    · exact ⟨.sec, h1, h2⟩
  · rintro ⟨e, h1, rfl⟩
    cases e
    · exact .inl (.inl ⟨h1, rfl, flagBit_lt h .ow⟩)
    · exact .inl (.inr ⟨h1, rfl, flagBit_lt h .alr⟩)
    · exact .inr ⟨h1, rfl, flagBit_lt h .sec⟩

/-- A bit of `IE(S)` is that of a member of `S` (00_scope.md R6). -/
theorem enableMask_iff (h : c.wf = true) (s : Events) (i : Nat) :
    (c.enableMask s).getLsbD i = true ↔ ∃ e, s.has e = true ∧ i = c.enableBit e := by
  rw [getLsbD_enableMask]
  simp only [Bool.or_eq_true, Bool.and_eq_true, decide_eq_true_eq]
  constructor
  · rintro ((⟨h1, h2, -⟩ | ⟨h1, h2, -⟩) | ⟨h1, h2, -⟩)
    · exact ⟨.ow, h1, h2⟩
    · exact ⟨.alr, h1, h2⟩
    · exact ⟨.sec, h1, h2⟩
  · rintro ⟨e, h1, rfl⟩
    cases e
    · exact .inl (.inl ⟨h1, rfl, enableBit_lt h .ow⟩)
    · exact .inl (.inr ⟨h1, rfl, enableBit_lt h .alr⟩)
    · exact .inr ⟨h1, rfl, enableBit_lt h .sec⟩

/-- `F(S)` has the flag of `e` exactly when `e` is in `S` (00_scope.md R6, R7 e). -/
theorem flagMask_flagBit (h : c.wf = true) (s : Events) (e : Event) :
    (c.flagMask s).getLsbD (c.flagBit e) = s.has e := by
  rw [Bool.eq_iff_iff, flagMask_iff h]
  exact ⟨fun ⟨f, hf, he⟩ => (Cfg.flagBit_inj h e f).1 he ▸ hf, fun he => ⟨e, he, rfl⟩⟩

/-- `F(S)` has no enable bit (00_scope.md R6, R7 e). -/
theorem flagMask_enableBit (h : c.wf = true) (s : Events) (e : Event) :
    (c.flagMask s).getLsbD (c.enableBit e) = false := by
  rw [← Bool.not_eq_true, flagMask_iff h]
  exact fun ⟨f, _, he⟩ => Cfg.flagBit_ne_enableBit h f e he.symm

/-- `IE(S)` has the enable of `e` exactly when `e` is in `S` (00_scope.md R6, R7 e). -/
theorem enableMask_enableBit (h : c.wf = true) (s : Events) (e : Event) :
    (c.enableMask s).getLsbD (c.enableBit e) = s.has e := by
  rw [Bool.eq_iff_iff, enableMask_iff h]
  exact ⟨fun ⟨f, hf, he⟩ => (Cfg.enableBit_inj h e f).1 he ▸ hf, fun he => ⟨e, he, rfl⟩⟩

/-- `IE(S)` has no flag bit (00_scope.md R6, R7 e). -/
theorem enableMask_flagBit (h : c.wf = true) (s : Events) (e : Event) :
    (c.enableMask s).getLsbD (c.flagBit e) = false := by
  rw [← Bool.not_eq_true, enableMask_iff h]
  exact fun ⟨f, _, he⟩ => Cfg.flagBit_ne_enableBit h e f he

/-- `F(S)` has no bit at `WEC_BIT` (00_scope.md R6, R7 e). -/
theorem flagMask_wecBit (h : c.wf = true) (s : Events) :
    (c.flagMask s).getLsbD c.wecBit = false := by
  rw [← Bool.not_eq_true, flagMask_iff h]
  exact fun ⟨f, _, he⟩ => Cfg.flagBit_ne_wecBit h f he.symm

/-- `IE(S)` has no bit at `WEC_BIT` (00_scope.md R6, R7 e). -/
theorem enableMask_wecBit (h : c.wf = true) (s : Events) :
    (c.enableMask s).getLsbD c.wecBit = false := by
  rw [← Bool.not_eq_true, enableMask_iff h]
  exact fun ⟨f, _, he⟩ => Cfg.enableBit_ne_wecBit h f he.symm

/-- `WEC_MASK` has no flag bit (00_scope.md R6, R7 e). -/
theorem wecMask_flagBit (h : c.wf = true) (e : Event) :
    c.wecMask.getLsbD (c.flagBit e) = false := by
  simp [Cfg.wecMask, Cfg.flagBit_ne_wecBit h e]

/-- `WEC_MASK` has no enable bit (00_scope.md R6, R7 e). -/
theorem wecMask_enableBit (h : c.wf = true) (e : Event) :
    c.wecMask.getLsbD (c.enableBit e) = false := by
  simp [Cfg.wecMask, Cfg.enableBit_ne_wecBit h e]

theorem wecMask_wecBit (h : c.wf = true) : c.wecMask.getLsbD c.wecBit = true := by
  have := Cfg.wf_lt32 h
  simp [Cfg.wecMask, this]

/-- A set of events is known by its members. -/
theorem Events.ext_has {s r : Events} (h : ∀ e, s.has e = r.has e) : s = r := by
  rcases s with ⟨a, b, d⟩
  rcases r with ⟨a', b', d'⟩
  have h1 := h .ow
  have h2 := h .alr
  have h3 := h .sec
  simp only [Events.has] at h1 h2 h3
  rw [h1, h2, h3]

@[simp] theorem Events.has_none (e : Event) : Events.none.has e = false := by cases e <;> rfl

@[simp] theorem Events.has_all (e : Event) : Events.all.has e = true := by cases e <;> rfl

@[simp] theorem Events.has_union (s r : Events) (e : Event) :
    (s.union r).has e = (s.has e || r.has e) := by cases e <;> rfl

@[simp] theorem Events.has_minus (s r : Events) (e : Event) :
    (s.minus r).has e = (s.has e && !r.has e) := by cases e <;> rfl

/-- `S` survives the way through `arg[2:0]` (30_encoding.md R104). -/
@[simp] theorem Events.ofArg_toArg (s : Events) : Events.ofArg s.toArg = s := by
  rcases s with ⟨a, b, d⟩; cases a <;> cases b <;> cases d <;> rfl

/-- The selector survives the way through `arg[1:0]` (30_encoding.md R105). -/
@[simp] theorem Flag.ofArg_toArg (f : Flag) : Flag.ofArg f.toArg = f := by
  rcases f with _ | e
  · rfl
  · cases e <;> rfl

/-- An operand with no bit above `arg[2:0]` is that of its event set (30_encoding.md R104). -/
theorem Events.toArg_ofArg {arg : Word} (h : arg >>> 3 = 0#32) :
    (Events.ofArg arg).toArg = arg := by
  have hb (j : Nat) : arg.getLsbD (3 + j) = false := by
    simpa using congrArg (fun v => v.getLsbD j) h
  have h0 : ∀ a b c : Bool, (Events.toArg ⟨a, b, c⟩).getLsbD 0 = a := by decide
  have h1 : ∀ a b c : Bool, (Events.toArg ⟨a, b, c⟩).getLsbD 1 = b := by decide
  have h2 : ∀ a b c : Bool, (Events.toArg ⟨a, b, c⟩).getLsbD 2 = c := by decide
  have h3 : ∀ n < 29, ∀ a b c : Bool, (Events.toArg ⟨a, b, c⟩).getLsbD (3 + n) = false := by
    decide
  apply BitVec.eq_of_getLsbD_eq
  intro i hi
  rcases (by omega : i = 0 ∨ i = 1 ∨ i = 2 ∨ 3 ≤ i) with rfl | rfl | rfl | hi3
  · exact h0 _ _ _
  · exact h1 _ _ _
  · exact h2 _ _ _
  · obtain ⟨j, rfl⟩ := Nat.exists_eq_add_of_le hi3
    rw [hb j]
    exact h3 j (by omega) _ _ _

/-- An operand with no bit above `arg[1:0]` is that of its selector (30_encoding.md R105). -/
theorem Flag.toArg_ofArg {arg : Word} (h : arg >>> 2 = 0#32) :
    (Flag.ofArg arg).toArg = arg := by
  have hb (j : Nat) : arg.getLsbD (2 + j) = false := by
    simpa using congrArg (fun v => v.getLsbD j) h
  apply BitVec.eq_of_getLsbD_eq
  intro i hi
  rcases (by omega : i = 0 ∨ i = 1 ∨ 2 ≤ i) with rfl | rfl | hi2
  · unfold Flag.ofArg; split <;> simp_all [Flag.toArg]
  · unfold Flag.ofArg; split <;> simp_all [Flag.toArg]
  · obtain ⟨j, rfl⟩ := Nat.exists_eq_add_of_le hi2
    rw [hb j]
    have h2 : ∀ n < 30, ∀ e, (Flag.toArg (.event e)).getLsbD (2 + n) = false := by
      intro n hn e
      revert n
      cases e <;> decide
    unfold Flag.ofArg; split
    · simp [Flag.toArg]
    all_goals exact h2 j (by omega) _

end Sys2Proof
end

