-- ==== Sys2Proof/Laws/State.lean ====
section
/-!
SUPPORT. Beside the state: for each update the machine makes, what each field holds after it. Every
lemma is true by `rfl`; together they keep later proofs from unfolding a record update.
-/

namespace Sys2Proof.Machine

/-! ### `setT` -/

@[simp] theorem setT_cfg (v : Word) (s : State) : (setT v s).cfg = s.cfg := rfl
@[simp] theorem setT_mode (v : Word) (s : State) : (setT v s).mode = s.mode := rfl
@[simp] theorem setT_cmd (v : Word) (s : State) : (setT v s).cmd = s.cmd := rfl
@[simp] theorem setT_a (v : Word) (s : State) : (setT v s).a = s.a := rfl
@[simp] theorem setT_b (v : Word) (s : State) : (setT v s).b = s.b := rfl
@[simp] theorem setT_t (v : Word) (s : State) : (setT v s).t = v := rfl
@[simp] theorem setT_upc (v : Word) (s : State) : (setT v s).upc = s.upc := rfl
@[simp] theorem setT_resp (v : Word) (s : State) : (setT v s).resp = s.resp := rfl
@[simp] theorem setT_respOutstanding (v : Word) (s : State) : (setT v s).respOutstanding = s.respOutstanding := rfl
@[simp] theorem setT_w (v : Word) (s : State) : (setT v s).w = s.w := rfl
@[simp] theorem setT_cnt (v : Word) (s : State) : (setT v s).cnt = s.cnt := rfl
@[simp] theorem setT_alrm (v : Word) (s : State) : (setT v s).alrm = s.alrm := rfl
@[simp] theorem setT_prl (v : Word) (s : State) : (setT v s).prl = s.prl := rfl
@[simp] theorem setT_div (v : Word) (s : State) : (setT v s).div = s.div := rfl
@[simp] theorem setT_flg (v : Word) (s : State) : (setT v s).flg = s.flg := rfl
@[simp] theorem setT_ie (v : Word) (s : State) : (setT v s).ie = s.ie := rfl
@[simp] theorem setT_pending (v : Word) (s : State) : (setT v s).pending = s.pending := rfl
@[simp] theorem setT_viol (v : Word) (s : State) : (setT v s).viol = s.viol := rfl
@[simp] theorem setT_fresh (v : Word) (s : State) : (setT v s).fresh = s.fresh := rfl
@[simp] theorem setT_program (v : Word) (s : State) : (setT v s).program = s.program := rfl
@[simp] theorem setT_inputs (v : Word) (s : State) : (setT v s).inputs = s.inputs := rfl

/-! ### `advance` -/

@[simp] theorem advance_cfg (s : State) : (advance s).cfg = s.cfg := rfl
@[simp] theorem advance_mode (s : State) : (advance s).mode = s.mode := rfl
@[simp] theorem advance_cmd (s : State) : (advance s).cmd = s.cmd := rfl
@[simp] theorem advance_a (s : State) : (advance s).a = s.a := rfl
@[simp] theorem advance_b (s : State) : (advance s).b = s.b := rfl
@[simp] theorem advance_t (s : State) : (advance s).t = s.t := rfl
@[simp] theorem advance_upc (s : State) : (advance s).upc = s.upc + 1#5 := rfl
@[simp] theorem advance_resp (s : State) : (advance s).resp = s.resp := rfl
@[simp] theorem advance_respOutstanding (s : State) : (advance s).respOutstanding = s.respOutstanding := rfl
@[simp] theorem advance_w (s : State) : (advance s).w = s.w := rfl
@[simp] theorem advance_cnt (s : State) : (advance s).cnt = s.cnt := rfl
@[simp] theorem advance_alrm (s : State) : (advance s).alrm = s.alrm := rfl
@[simp] theorem advance_prl (s : State) : (advance s).prl = s.prl := rfl
@[simp] theorem advance_div (s : State) : (advance s).div = s.div := rfl
@[simp] theorem advance_flg (s : State) : (advance s).flg = s.flg := rfl
@[simp] theorem advance_ie (s : State) : (advance s).ie = s.ie := rfl
@[simp] theorem advance_pending (s : State) : (advance s).pending = s.pending := rfl
@[simp] theorem advance_viol (s : State) : (advance s).viol = s.viol := rfl
@[simp] theorem advance_fresh (s : State) : (advance s).fresh = s.fresh := rfl
@[simp] theorem advance_program (s : State) : (advance s).program = s.program := rfl
@[simp] theorem advance_inputs (s : State) : (advance s).inputs = s.inputs := rfl

/-! ### `respond` -/

@[simp] theorem respond_cfg (d : Word) (s : State) : (respond d s).cfg = s.cfg := rfl
@[simp] theorem respond_mode (d : Word) (s : State) : (respond d s).mode = .idle := rfl
@[simp] theorem respond_cmd (d : Word) (s : State) : (respond d s).cmd = s.cmd := rfl
@[simp] theorem respond_a (d : Word) (s : State) : (respond d s).a = s.a := rfl
@[simp] theorem respond_b (d : Word) (s : State) : (respond d s).b = s.b := rfl
@[simp] theorem respond_t (d : Word) (s : State) : (respond d s).t = s.t := rfl
@[simp] theorem respond_upc (d : Word) (s : State) : (respond d s).upc = s.upc := rfl
@[simp] theorem respond_resp (d : Word) (s : State) : (respond d s).resp = ⟨statusOk, d⟩ := rfl
@[simp] theorem respond_respOutstanding (d : Word) (s : State) : (respond d s).respOutstanding = true := rfl
@[simp] theorem respond_w (d : Word) (s : State) : (respond d s).w = s.w := rfl
@[simp] theorem respond_cnt (d : Word) (s : State) : (respond d s).cnt = s.cnt := rfl
@[simp] theorem respond_alrm (d : Word) (s : State) : (respond d s).alrm = s.alrm := rfl
@[simp] theorem respond_prl (d : Word) (s : State) : (respond d s).prl = s.prl := rfl
@[simp] theorem respond_div (d : Word) (s : State) : (respond d s).div = s.div := rfl
@[simp] theorem respond_flg (d : Word) (s : State) : (respond d s).flg = s.flg := rfl
@[simp] theorem respond_ie (d : Word) (s : State) : (respond d s).ie = s.ie := rfl
@[simp] theorem respond_pending (d : Word) (s : State) : (respond d s).pending = s.pending := rfl
@[simp] theorem respond_viol (d : Word) (s : State) : (respond d s).viol = s.viol := rfl
@[simp] theorem respond_fresh (d : Word) (s : State) : (respond d s).fresh = s.fresh := rfl
@[simp] theorem respond_program (d : Word) (s : State) : (respond d s).program = s.program := rfl
@[simp] theorem respond_inputs (d : Word) (s : State) : (respond d s).inputs = s.inputs := rfl

/-! ### `takeFault` -/

@[simp] theorem takeFault_cfg (k : BitVec 2) (s : State) : (takeFault k s).cfg = s.cfg := rfl
@[simp] theorem takeFault_mode (k : BitVec 2) (s : State) : (takeFault k s).mode = .halted := rfl
@[simp] theorem takeFault_cmd (k : BitVec 2) (s : State) : (takeFault k s).cmd = s.cmd := rfl
@[simp] theorem takeFault_a (k : BitVec 2) (s : State) : (takeFault k s).a = s.a := rfl
@[simp] theorem takeFault_b (k : BitVec 2) (s : State) : (takeFault k s).b = s.b := rfl
@[simp] theorem takeFault_t (k : BitVec 2) (s : State) : (takeFault k s).t = s.t := rfl
@[simp] theorem takeFault_upc (k : BitVec 2) (s : State) : (takeFault k s).upc = s.upc := rfl
@[simp] theorem takeFault_resp (k : BitVec 2) (s : State) : (takeFault k s).resp = ⟨k, 0#32⟩ := rfl
@[simp] theorem takeFault_respOutstanding (k : BitVec 2) (s : State) : (takeFault k s).respOutstanding = true := rfl
@[simp] theorem takeFault_w (k : BitVec 2) (s : State) : (takeFault k s).w = s.w := rfl
@[simp] theorem takeFault_cnt (k : BitVec 2) (s : State) : (takeFault k s).cnt = s.cnt := rfl
@[simp] theorem takeFault_alrm (k : BitVec 2) (s : State) : (takeFault k s).alrm = s.alrm := rfl
@[simp] theorem takeFault_prl (k : BitVec 2) (s : State) : (takeFault k s).prl = s.prl := rfl
@[simp] theorem takeFault_div (k : BitVec 2) (s : State) : (takeFault k s).div = s.div := rfl
@[simp] theorem takeFault_flg (k : BitVec 2) (s : State) : (takeFault k s).flg = s.flg := rfl
@[simp] theorem takeFault_ie (k : BitVec 2) (s : State) : (takeFault k s).ie = s.ie := rfl
@[simp] theorem takeFault_pending (k : BitVec 2) (s : State) : (takeFault k s).pending = s.pending := rfl
@[simp] theorem takeFault_viol (k : BitVec 2) (s : State) : (takeFault k s).viol = s.viol := rfl
@[simp] theorem takeFault_fresh (k : BitVec 2) (s : State) : (takeFault k s).fresh = s.fresh := rfl
@[simp] theorem takeFault_program (k : BitVec 2) (s : State) : (takeFault k s).program = s.program := rfl
@[simp] theorem takeFault_inputs (k : BitVec 2) (s : State) : (takeFault k s).inputs = s.inputs := rfl

/-! ### `latch` -/

@[simp] theorem latch_cfg (c : CommandWord) (s : State) : (latch c s).cfg = s.cfg := rfl
@[simp] theorem latch_mode (c : CommandWord) (s : State) : (latch c s).mode = .busy := rfl
@[simp] theorem latch_cmd (c : CommandWord) (s : State) : (latch c s).cmd = c := rfl
@[simp] theorem latch_a (c : CommandWord) (s : State) : (latch c s).a = argField c := rfl
@[simp] theorem latch_b (c : CommandWord) (s : State) : (latch c s).b = enField c := rfl
@[simp] theorem latch_t (c : CommandWord) (s : State) : (latch c s).t = s.t := rfl
@[simp] theorem latch_upc (c : CommandWord) (s : State) : (latch c s).upc = 0#5 := rfl
@[simp] theorem latch_resp (c : CommandWord) (s : State) : (latch c s).resp = s.resp := rfl
@[simp] theorem latch_respOutstanding (c : CommandWord) (s : State) : (latch c s).respOutstanding = false := rfl
@[simp] theorem latch_w (c : CommandWord) (s : State) : (latch c s).w = s.w := rfl
@[simp] theorem latch_cnt (c : CommandWord) (s : State) : (latch c s).cnt = s.cnt := rfl
@[simp] theorem latch_alrm (c : CommandWord) (s : State) : (latch c s).alrm = s.alrm := rfl
@[simp] theorem latch_prl (c : CommandWord) (s : State) : (latch c s).prl = s.prl := rfl
@[simp] theorem latch_div (c : CommandWord) (s : State) : (latch c s).div = s.div := rfl
@[simp] theorem latch_flg (c : CommandWord) (s : State) : (latch c s).flg = s.flg := rfl
@[simp] theorem latch_ie (c : CommandWord) (s : State) : (latch c s).ie = s.ie := rfl
@[simp] theorem latch_pending (c : CommandWord) (s : State) : (latch c s).pending = s.pending := rfl
@[simp] theorem latch_viol (c : CommandWord) (s : State) : (latch c s).viol = s.viol := rfl
@[simp] theorem latch_fresh (c : CommandWord) (s : State) : (latch c s).fresh = s.fresh := rfl
@[simp] theorem latch_program (c : CommandWord) (s : State) : (latch c s).program = s.program := rfl
@[simp] theorem latch_inputs (c : CommandWord) (s : State) : (latch c s).inputs = s.inputs := rfl

/-! ### `useDraw` -/

@[simp] theorem useDraw_cfg (s : State) : (useDraw s).cfg = s.cfg := rfl
@[simp] theorem useDraw_mode (s : State) : (useDraw s).mode = s.mode := rfl
@[simp] theorem useDraw_cmd (s : State) : (useDraw s).cmd = s.cmd := rfl
@[simp] theorem useDraw_a (s : State) : (useDraw s).a = s.a := rfl
@[simp] theorem useDraw_b (s : State) : (useDraw s).b = s.b := rfl
@[simp] theorem useDraw_t (s : State) : (useDraw s).t = s.t := rfl
@[simp] theorem useDraw_upc (s : State) : (useDraw s).upc = s.upc := rfl
@[simp] theorem useDraw_resp (s : State) : (useDraw s).resp = s.resp := rfl
@[simp] theorem useDraw_respOutstanding (s : State) : (useDraw s).respOutstanding = s.respOutstanding := rfl
@[simp] theorem useDraw_w (s : State) : (useDraw s).w = s.w := rfl
@[simp] theorem useDraw_cnt (s : State) : (useDraw s).cnt = s.cnt := rfl
@[simp] theorem useDraw_alrm (s : State) : (useDraw s).alrm = s.alrm := rfl
@[simp] theorem useDraw_prl (s : State) : (useDraw s).prl = s.prl := rfl
@[simp] theorem useDraw_div (s : State) : (useDraw s).div = s.div := rfl
@[simp] theorem useDraw_flg (s : State) : (useDraw s).flg = s.flg := rfl
@[simp] theorem useDraw_ie (s : State) : (useDraw s).ie = s.ie := rfl
@[simp] theorem useDraw_pending (s : State) : (useDraw s).pending = s.pending := rfl
@[simp] theorem useDraw_viol (s : State) : (useDraw s).viol = s.viol := rfl
@[simp] theorem useDraw_fresh (s : State) : (useDraw s).fresh = s.fresh + 1 := rfl
@[simp] theorem useDraw_program (s : State) : (useDraw s).program = s.program := rfl
@[simp] theorem useDraw_inputs (s : State) : (useDraw s).inputs = s.inputs := rfl

/-! ### `setPlain` -/

@[simp] theorem setPlain_cfg (k : Fin 16) (v : Word) (s : State) : (setPlain k v s).cfg = s.cfg := rfl
@[simp] theorem setPlain_mode (k : Fin 16) (v : Word) (s : State) : (setPlain k v s).mode = s.mode := rfl
@[simp] theorem setPlain_cmd (k : Fin 16) (v : Word) (s : State) : (setPlain k v s).cmd = s.cmd := rfl
@[simp] theorem setPlain_a (k : Fin 16) (v : Word) (s : State) : (setPlain k v s).a = s.a := rfl
@[simp] theorem setPlain_b (k : Fin 16) (v : Word) (s : State) : (setPlain k v s).b = s.b := rfl
@[simp] theorem setPlain_t (k : Fin 16) (v : Word) (s : State) : (setPlain k v s).t = s.t := rfl
@[simp] theorem setPlain_upc (k : Fin 16) (v : Word) (s : State) : (setPlain k v s).upc = s.upc := rfl
@[simp] theorem setPlain_resp (k : Fin 16) (v : Word) (s : State) : (setPlain k v s).resp = s.resp := rfl
@[simp] theorem setPlain_respOutstanding (k : Fin 16) (v : Word) (s : State) : (setPlain k v s).respOutstanding = s.respOutstanding := rfl
@[simp] theorem setPlain_w (k : Fin 16) (v : Word) (s : State) : (setPlain k v s).w = s.w.set k v := rfl
@[simp] theorem setPlain_cnt (k : Fin 16) (v : Word) (s : State) : (setPlain k v s).cnt = s.cnt := rfl
@[simp] theorem setPlain_alrm (k : Fin 16) (v : Word) (s : State) : (setPlain k v s).alrm = s.alrm := rfl
@[simp] theorem setPlain_prl (k : Fin 16) (v : Word) (s : State) : (setPlain k v s).prl = s.prl := rfl
@[simp] theorem setPlain_div (k : Fin 16) (v : Word) (s : State) : (setPlain k v s).div = s.div := rfl
@[simp] theorem setPlain_flg (k : Fin 16) (v : Word) (s : State) : (setPlain k v s).flg = s.flg := rfl
@[simp] theorem setPlain_ie (k : Fin 16) (v : Word) (s : State) : (setPlain k v s).ie = s.ie := rfl
@[simp] theorem setPlain_pending (k : Fin 16) (v : Word) (s : State) : (setPlain k v s).pending = s.pending := rfl
@[simp] theorem setPlain_viol (k : Fin 16) (v : Word) (s : State) : (setPlain k v s).viol = s.viol := rfl
@[simp] theorem setPlain_fresh (k : Fin 16) (v : Word) (s : State) : (setPlain k v s).fresh = s.fresh := rfl
@[simp] theorem setPlain_program (k : Fin 16) (v : Word) (s : State) : (setPlain k v s).program = s.program := rfl
@[simp] theorem setPlain_inputs (k : Fin 16) (v : Word) (s : State) : (setPlain k v s).inputs = s.inputs := rfl

/-! ### `writeCs` -/

@[simp] theorem writeCs_cfg (v : Word) (s : State) : (writeCs v s).cfg = s.cfg := rfl
@[simp] theorem writeCs_mode (v : Word) (s : State) : (writeCs v s).mode = s.mode := rfl
@[simp] theorem writeCs_cmd (v : Word) (s : State) : (writeCs v s).cmd = s.cmd := rfl
@[simp] theorem writeCs_a (v : Word) (s : State) : (writeCs v s).a = s.a := rfl
@[simp] theorem writeCs_b (v : Word) (s : State) : (writeCs v s).b = s.b := rfl
@[simp] theorem writeCs_t (v : Word) (s : State) : (writeCs v s).t = s.t := rfl
@[simp] theorem writeCs_upc (v : Word) (s : State) : (writeCs v s).upc = s.upc := rfl
@[simp] theorem writeCs_resp (v : Word) (s : State) : (writeCs v s).resp = s.resp := rfl
@[simp] theorem writeCs_respOutstanding (v : Word) (s : State) : (writeCs v s).respOutstanding = s.respOutstanding := rfl
@[simp] theorem writeCs_w (v : Word) (s : State) : (writeCs v s).w = s.w := rfl
@[simp] theorem writeCs_cnt (v : Word) (s : State) : (writeCs v s).cnt = s.cnt := rfl
@[simp] theorem writeCs_alrm (v : Word) (s : State) : (writeCs v s).alrm = s.alrm := rfl
@[simp] theorem writeCs_prl (v : Word) (s : State) : (writeCs v s).prl = s.prl := rfl
@[simp] theorem writeCs_div (v : Word) (s : State) : (writeCs v s).div = s.div := rfl
@[simp] theorem writeCs_flg (v : Word) (s : State) : (writeCs v s).flg = s.flg.minus (clearedBy s.cfg v) := rfl
@[simp] theorem writeCs_ie (v : Word) (s : State) : (writeCs v s).ie = enabledBy s.cfg v := rfl
@[simp] theorem writeCs_pending (v : Word) (s : State) : (writeCs v s).pending = s.pending := rfl
@[simp] theorem writeCs_viol (v : Word) (s : State) : (writeCs v s).viol = s.viol := rfl
@[simp] theorem writeCs_fresh (v : Word) (s : State) : (writeCs v s).fresh = s.fresh := rfl
@[simp] theorem writeCs_program (v : Word) (s : State) : (writeCs v s).program = s.program := rfl
@[simp] theorem writeCs_inputs (v : Word) (s : State) : (writeCs v s).inputs = s.inputs := rfl

/-! ### `violate` -/

@[simp] theorem violate_cfg (s : State) : (violate s).cfg = s.cfg := rfl
@[simp] theorem violate_mode (s : State) : (violate s).mode = s.mode := rfl
@[simp] theorem violate_cmd (s : State) : (violate s).cmd = s.cmd := rfl
@[simp] theorem violate_a (s : State) : (violate s).a = s.a := rfl
@[simp] theorem violate_b (s : State) : (violate s).b = s.b := rfl
@[simp] theorem violate_t (s : State) : (violate s).t = s.t := rfl
@[simp] theorem violate_upc (s : State) : (violate s).upc = s.upc := rfl
@[simp] theorem violate_resp (s : State) : (violate s).resp = s.resp := rfl
@[simp] theorem violate_respOutstanding (s : State) : (violate s).respOutstanding = s.respOutstanding := rfl
@[simp] theorem violate_w (s : State) : (violate s).w = s.w := rfl
@[simp] theorem violate_cnt (s : State) : (violate s).cnt = (Config.corruption s.fresh).cnt := rfl
@[simp] theorem violate_alrm (s : State) : (violate s).alrm = (Config.corruption s.fresh).alrm := rfl
@[simp] theorem violate_prl (s : State) : (violate s).prl = (Config.corruption s.fresh).prl := rfl
@[simp] theorem violate_div (s : State) : (violate s).div = s.div := rfl
@[simp] theorem violate_flg (s : State) : (violate s).flg = s.flg := rfl
@[simp] theorem violate_ie (s : State) : (violate s).ie = s.ie := rfl
@[simp] theorem violate_pending (s : State) : (violate s).pending = some (Config.corruption s.fresh).pending := rfl
@[simp] theorem violate_viol (s : State) : (violate s).viol = true := rfl
@[simp] theorem violate_fresh (s : State) : (violate s).fresh = s.fresh + 1 := rfl
@[simp] theorem violate_program (s : State) : (violate s).program = s.program := rfl
@[simp] theorem violate_inputs (s : State) : (violate s).inputs = s.inputs := rfl

/-! ### `hardwareReset` -/

@[simp] theorem hardwareReset_cfg (s : State) : (hardwareReset s).cfg = s.cfg := rfl
@[simp] theorem hardwareReset_mode (s : State) : (hardwareReset s).mode = .idle := rfl
@[simp] theorem hardwareReset_cmd (s : State) : (hardwareReset s).cmd = (Config.latches s.fresh).cmd := rfl
@[simp] theorem hardwareReset_a (s : State) : (hardwareReset s).a = (Config.latches s.fresh).a := rfl
@[simp] theorem hardwareReset_b (s : State) : (hardwareReset s).b = (Config.latches s.fresh).b := rfl
@[simp] theorem hardwareReset_t (s : State) : (hardwareReset s).t = (Config.latches s.fresh).t := rfl
@[simp] theorem hardwareReset_upc (s : State) : (hardwareReset s).upc = (Config.latches s.fresh).upc := rfl
@[simp] theorem hardwareReset_resp (s : State) : (hardwareReset s).resp = (Config.latches s.fresh).resp := rfl
@[simp] theorem hardwareReset_respOutstanding (s : State) : (hardwareReset s).respOutstanding = false := rfl
@[simp] theorem hardwareReset_w (s : State) : (hardwareReset s).w = s.w := rfl
@[simp] theorem hardwareReset_cnt (s : State) : (hardwareReset s).cnt = s.cnt := rfl
@[simp] theorem hardwareReset_alrm (s : State) : (hardwareReset s).alrm = s.alrm := rfl
@[simp] theorem hardwareReset_prl (s : State) : (hardwareReset s).prl = s.prl := rfl
@[simp] theorem hardwareReset_div (s : State) : (hardwareReset s).div = s.div := rfl
@[simp] theorem hardwareReset_flg (s : State) : (hardwareReset s).flg = s.flg := rfl
@[simp] theorem hardwareReset_ie (s : State) : (hardwareReset s).ie = s.ie := rfl
@[simp] theorem hardwareReset_pending (s : State) : (hardwareReset s).pending = s.pending := rfl
@[simp] theorem hardwareReset_viol (s : State) : (hardwareReset s).viol = s.viol := rfl
@[simp] theorem hardwareReset_fresh (s : State) : (hardwareReset s).fresh = s.fresh + 1 := rfl
@[simp] theorem hardwareReset_program (s : State) : (hardwareReset s).program = s.program := rfl
@[simp] theorem hardwareReset_inputs (s : State) : (hardwareReset s).inputs = s.inputs := rfl

/-! ### `rtcCoreStep` -/

@[simp] theorem rtcCoreStep_cfg (m : RtcMove) (s : State) : (rtcCoreStep m s).cfg = s.cfg := rfl
@[simp] theorem rtcCoreStep_mode (m : RtcMove) (s : State) : (rtcCoreStep m s).mode = s.mode := rfl
@[simp] theorem rtcCoreStep_cmd (m : RtcMove) (s : State) : (rtcCoreStep m s).cmd = s.cmd := rfl
@[simp] theorem rtcCoreStep_a (m : RtcMove) (s : State) : (rtcCoreStep m s).a = s.a := rfl
@[simp] theorem rtcCoreStep_b (m : RtcMove) (s : State) : (rtcCoreStep m s).b = s.b := rfl
@[simp] theorem rtcCoreStep_t (m : RtcMove) (s : State) : (rtcCoreStep m s).t = s.t := rfl
@[simp] theorem rtcCoreStep_upc (m : RtcMove) (s : State) : (rtcCoreStep m s).upc = s.upc := rfl
@[simp] theorem rtcCoreStep_resp (m : RtcMove) (s : State) : (rtcCoreStep m s).resp = s.resp := rfl
@[simp] theorem rtcCoreStep_respOutstanding (m : RtcMove) (s : State) : (rtcCoreStep m s).respOutstanding = s.respOutstanding := rfl
@[simp] theorem rtcCoreStep_w (m : RtcMove) (s : State) : (rtcCoreStep m s).w = s.w := rfl
@[simp] theorem rtcCoreStep_cnt (m : RtcMove) (s : State) : (rtcCoreStep m s).cnt = m.cnt.getD s.cnt := rfl
@[simp] theorem rtcCoreStep_alrm (m : RtcMove) (s : State) : (rtcCoreStep m s).alrm = s.alrm := rfl
@[simp] theorem rtcCoreStep_prl (m : RtcMove) (s : State) : (rtcCoreStep m s).prl = s.prl := rfl
@[simp] theorem rtcCoreStep_div (m : RtcMove) (s : State) : (rtcCoreStep m s).div = m.div.getD s.div := rfl
@[simp] theorem rtcCoreStep_flg (m : RtcMove) (s : State) : (rtcCoreStep m s).flg = s.flg.union m.raised := rfl
@[simp] theorem rtcCoreStep_ie (m : RtcMove) (s : State) : (rtcCoreStep m s).ie = s.ie := rfl
@[simp] theorem rtcCoreStep_pending (m : RtcMove) (s : State) : (rtcCoreStep m s).pending = s.pending := rfl
@[simp] theorem rtcCoreStep_viol (m : RtcMove) (s : State) : (rtcCoreStep m s).viol = s.viol := rfl
@[simp] theorem rtcCoreStep_fresh (m : RtcMove) (s : State) : (rtcCoreStep m s).fresh = s.fresh := rfl
@[simp] theorem rtcCoreStep_program (m : RtcMove) (s : State) : (rtcCoreStep m s).program = s.program := rfl
@[simp] theorem rtcCoreStep_inputs (m : RtcMove) (s : State) : (rtcCoreStep m s).inputs = s.inputs := rfl

/-! ### `setCommitted` -/

@[simp] theorem setCommitted_cfg (x : Synced) (v : Word) (s : State) :
    (setCommitted x v s).cfg = s.cfg := by cases x <;> rfl
@[simp] theorem setCommitted_mode (x : Synced) (v : Word) (s : State) :
    (setCommitted x v s).mode = s.mode := by cases x <;> rfl
@[simp] theorem setCommitted_cmd (x : Synced) (v : Word) (s : State) :
    (setCommitted x v s).cmd = s.cmd := by cases x <;> rfl
@[simp] theorem setCommitted_a (x : Synced) (v : Word) (s : State) :
    (setCommitted x v s).a = s.a := by cases x <;> rfl
@[simp] theorem setCommitted_b (x : Synced) (v : Word) (s : State) :
    (setCommitted x v s).b = s.b := by cases x <;> rfl
@[simp] theorem setCommitted_t (x : Synced) (v : Word) (s : State) :
    (setCommitted x v s).t = s.t := by cases x <;> rfl
@[simp] theorem setCommitted_upc (x : Synced) (v : Word) (s : State) :
    (setCommitted x v s).upc = s.upc := by cases x <;> rfl
@[simp] theorem setCommitted_resp (x : Synced) (v : Word) (s : State) :
    (setCommitted x v s).resp = s.resp := by cases x <;> rfl
@[simp] theorem setCommitted_respOutstanding (x : Synced) (v : Word) (s : State) :
    (setCommitted x v s).respOutstanding = s.respOutstanding := by cases x <;> rfl
@[simp] theorem setCommitted_w (x : Synced) (v : Word) (s : State) :
    (setCommitted x v s).w = s.w := by cases x <;> rfl
@[simp] theorem setCommitted_div (x : Synced) (v : Word) (s : State) :
    (setCommitted x v s).div = s.div := by cases x <;> rfl
@[simp] theorem setCommitted_flg (x : Synced) (v : Word) (s : State) :
    (setCommitted x v s).flg = s.flg := by cases x <;> rfl
@[simp] theorem setCommitted_ie (x : Synced) (v : Word) (s : State) :
    (setCommitted x v s).ie = s.ie := by cases x <;> rfl
@[simp] theorem setCommitted_pending (x : Synced) (v : Word) (s : State) :
    (setCommitted x v s).pending = s.pending := by cases x <;> rfl
@[simp] theorem setCommitted_viol (x : Synced) (v : Word) (s : State) :
    (setCommitted x v s).viol = s.viol := by cases x <;> rfl
@[simp] theorem setCommitted_fresh (x : Synced) (v : Word) (s : State) :
    (setCommitted x v s).fresh = s.fresh := by cases x <;> rfl
@[simp] theorem setCommitted_program (x : Synced) (v : Word) (s : State) :
    (setCommitted x v s).program = s.program := by cases x <;> rfl
@[simp] theorem setCommitted_inputs (x : Synced) (v : Word) (s : State) :
    (setCommitted x v s).inputs = s.inputs := by cases x <;> rfl

/-- A commit gives the register its value and leaves the other two (20_memory.md R67). -/
@[simp] theorem committed_setCommitted (x y : Synced) (v : Word) (s : State) :
    committed (setCommitted x v s) y = if x = y then v else committed s y := by
  cases x <;> cases y <;> rfl

/-- Loading `T` leaves the committed values. -/
@[simp] theorem committed_setT (x : Synced) (v : Word) (s : State) :
    committed (setT v s) x = committed s x := by cases x <;> rfl

end Sys2Proof.Machine
end

