-- ==== Sys2Proof/Laws/Bus.lean ====
section
/-!
SUPPORT. The register bus: which register an index names under a well-formed configuration
(20_memory.md R60, R78), what an access may change, and what each access answers.
-/

namespace Sys2Proof.Machine

open Sys2Proof

/-! ### The register at an index -/

theorem regAt_plain (c : Cfg) {i : Nat} (h : i < 16) : regAt c i = some (.plain ⟨i, h⟩) := by
  simp [regAt, h]

theorem regAt_ctrl {c : Cfg} (h : c.wf = true) : regAt c c.idxCtrl = some (.plain 14) := by
  rw [Cfg.wf_idxCtrl h]; rfl

theorem regAt_cfg {c : Cfg} (h : c.wf = true) : regAt c c.idxCfg = some (.plain 15) := by
  rw [Cfg.wf_idxCfg h]; rfl

theorem regAt_synced {c : Cfg} (h : c.wf = true) (x : Synced) :
    regAt c (syncedIdx c x) = some (.synced x) := by
  have hr := Cfg.wf_rtc h
  cases x with
  | cnt =>
    change regAt c c.idxCnt = _
    rw [regAt, dif_neg (by omega), if_pos rfl]
  | alrm =>
    change regAt c c.idxAlrm = _
    rw [regAt, dif_neg (by omega), if_neg (by omega), if_neg (by omega), if_neg (by omega),
      if_pos rfl]
  | prl =>
    change regAt c c.idxPrl = _
    rw [regAt, dif_neg (by omega), if_neg (by omega), if_neg (by omega), if_pos rfl]

theorem regAt_div {c : Cfg} (h : c.wf = true) : regAt c c.idxDiv = some .div := by
  have := Cfg.wf_rtc h
  rw [regAt, dif_neg (by omega), if_neg (by omega), if_pos rfl]

theorem regAt_cs {c : Cfg} (h : c.wf = true) : regAt c c.idxCs = some .cs := by
  have := Cfg.wf_rtc h
  rw [regAt, dif_neg (by omega), if_neg (by omega), if_neg (by omega), if_neg (by omega),
    if_neg (by omega), if_pos rfl]

/-- Every index 0x10 to 0x14 is that of an RTC register (20_memory.md R78). -/
theorem regAt_rtc {c : Cfg} (h : c.wf = true) {i : Nat} (h1 : 0x10 ≤ i) (h2 : i ≤ 0x14) :
    (∃ x, i = syncedIdx c x) ∨ i = c.idxDiv ∨ i = c.idxCs := by
  have := Cfg.wf_rtc h
  have h6 : i = c.idxCnt ∨ i = c.idxAlrm ∨ i = c.idxPrl ∨ i = c.idxDiv ∨ i = c.idxCs := by omega
  rcases h6 with h6 | h6 | h6 | h6 | h6
  · exact .inl ⟨.cnt, h6⟩
  · exact .inl ⟨.alrm, h6⟩
  · exact .inl ⟨.prl, h6⟩
  · exact .inr (.inl h6)
  · exact .inr (.inr h6)

/-- An index of the block names a register; no other does (20_memory.md R61). -/
theorem regAt_isSome_iff {c : Cfg} (h : c.wf = true) (i : Nat) :
    (regAt c i).isSome = true ↔ i ≤ 0x14 := by
  constructor
  · intro hs
    have := Cfg.wf_rtc h
    by_contra hi
    rw [regAt, dif_neg (by omega), if_neg (by omega), if_neg (by omega), if_neg (by omega),
      if_neg (by omega), if_neg (by omega)] at hs
    simp at hs
  · intro hi
    by_cases h16 : i < 16
    · simp [regAt_plain c h16]
    · rcases regAt_rtc h (by omega) hi with ⟨x, rfl⟩ | rfl | rfl
      · simp [regAt_synced h]
      · simp [regAt_div h]
      · simp [regAt_cs h]

/-! ### What a read may change: the draw counter alone (20_memory.md R63) -/

/-- A read leaves the state, or uses up one draw. -/
theorem readSynced_state (x : Synced) (s : State) :
    (readSynced x s).2 = s ∨ (readSynced x s).2 = useDraw s := by
  unfold readSynced; split
  · exact .inl rfl
  · split
    · split
      · exact .inl rfl
      · exact .inl rfl
      · exact .inr rfl
    · exact .inl rfl

/-- A read leaves the state, or uses up one draw. -/
theorem readReg_state (r : Reg) (s : State) :
    (readReg r s).2 = s ∨ (readReg r s).2 = useDraw s := by
  cases r <;> first | exact .inl rfl | exact readSynced_state _ _

@[simp] theorem readReg_cfg (r : Reg) (s : State) : (readReg r s).2.cfg = s.cfg := by
  rcases readReg_state r s with h | h <;> simp [h]
@[simp] theorem readReg_mode (r : Reg) (s : State) : (readReg r s).2.mode = s.mode := by
  rcases readReg_state r s with h | h <;> simp [h]
@[simp] theorem readReg_cmd (r : Reg) (s : State) : (readReg r s).2.cmd = s.cmd := by
  rcases readReg_state r s with h | h <;> simp [h]
@[simp] theorem readReg_a (r : Reg) (s : State) : (readReg r s).2.a = s.a := by
  rcases readReg_state r s with h | h <;> simp [h]
@[simp] theorem readReg_b (r : Reg) (s : State) : (readReg r s).2.b = s.b := by
  rcases readReg_state r s with h | h <;> simp [h]
@[simp] theorem readReg_t (r : Reg) (s : State) : (readReg r s).2.t = s.t := by
  rcases readReg_state r s with h | h <;> simp [h]
@[simp] theorem readReg_upc (r : Reg) (s : State) : (readReg r s).2.upc = s.upc := by
  rcases readReg_state r s with h | h <;> simp [h]
@[simp] theorem readReg_resp (r : Reg) (s : State) : (readReg r s).2.resp = s.resp := by
  rcases readReg_state r s with h | h <;> simp [h]
@[simp] theorem readReg_respOutstanding (r : Reg) (s : State) : (readReg r s).2.respOutstanding = s.respOutstanding := by
  rcases readReg_state r s with h | h <;> simp [h]
@[simp] theorem readReg_w (r : Reg) (s : State) : (readReg r s).2.w = s.w := by
  rcases readReg_state r s with h | h <;> simp [h]
@[simp] theorem readReg_cnt (r : Reg) (s : State) : (readReg r s).2.cnt = s.cnt := by
  rcases readReg_state r s with h | h <;> simp [h]
@[simp] theorem readReg_alrm (r : Reg) (s : State) : (readReg r s).2.alrm = s.alrm := by
  rcases readReg_state r s with h | h <;> simp [h]
@[simp] theorem readReg_prl (r : Reg) (s : State) : (readReg r s).2.prl = s.prl := by
  rcases readReg_state r s with h | h <;> simp [h]
@[simp] theorem readReg_div (r : Reg) (s : State) : (readReg r s).2.div = s.div := by
  rcases readReg_state r s with h | h <;> simp [h]
@[simp] theorem readReg_flg (r : Reg) (s : State) : (readReg r s).2.flg = s.flg := by
  rcases readReg_state r s with h | h <;> simp [h]
@[simp] theorem readReg_ie (r : Reg) (s : State) : (readReg r s).2.ie = s.ie := by
  rcases readReg_state r s with h | h <;> simp [h]
@[simp] theorem readReg_pending (r : Reg) (s : State) : (readReg r s).2.pending = s.pending := by
  rcases readReg_state r s with h | h <;> simp [h]
@[simp] theorem readReg_viol (r : Reg) (s : State) : (readReg r s).2.viol = s.viol := by
  rcases readReg_state r s with h | h <;> simp [h]
@[simp] theorem readReg_program (r : Reg) (s : State) : (readReg r s).2.program = s.program := by
  rcases readReg_state r s with h | h <;> simp [h]
@[simp] theorem readReg_inputs (r : Reg) (s : State) : (readReg r s).2.inputs = s.inputs := by
  rcases readReg_state r s with h | h <;> simp [h]

/-! ### What a write may change (20_memory.md R64 to R71) -/

@[simp] theorem writeReg_cfg (r : Reg) (v : Word) (s : State) : (writeReg r v s).cfg = s.cfg := by
  cases r <;> try rfl
  simp only [writeReg, writeSynced]; split <;> rfl
@[simp] theorem writeReg_mode (r : Reg) (v : Word) (s : State) : (writeReg r v s).mode = s.mode := by
  cases r <;> try rfl
  simp only [writeReg, writeSynced]; split <;> rfl
@[simp] theorem writeReg_cmd (r : Reg) (v : Word) (s : State) : (writeReg r v s).cmd = s.cmd := by
  cases r <;> try rfl
  simp only [writeReg, writeSynced]; split <;> rfl
@[simp] theorem writeReg_a (r : Reg) (v : Word) (s : State) : (writeReg r v s).a = s.a := by
  cases r <;> try rfl
  simp only [writeReg, writeSynced]; split <;> rfl
@[simp] theorem writeReg_b (r : Reg) (v : Word) (s : State) : (writeReg r v s).b = s.b := by
  cases r <;> try rfl
  simp only [writeReg, writeSynced]; split <;> rfl
@[simp] theorem writeReg_t (r : Reg) (v : Word) (s : State) : (writeReg r v s).t = s.t := by
  cases r <;> try rfl
  simp only [writeReg, writeSynced]; split <;> rfl
@[simp] theorem writeReg_upc (r : Reg) (v : Word) (s : State) : (writeReg r v s).upc = s.upc := by
  cases r <;> try rfl
  simp only [writeReg, writeSynced]; split <;> rfl
@[simp] theorem writeReg_resp (r : Reg) (v : Word) (s : State) : (writeReg r v s).resp = s.resp := by
  cases r <;> try rfl
  simp only [writeReg, writeSynced]; split <;> rfl
@[simp] theorem writeReg_respOutstanding (r : Reg) (v : Word) (s : State) : (writeReg r v s).respOutstanding = s.respOutstanding := by
  cases r <;> try rfl
  simp only [writeReg, writeSynced]; split <;> rfl
@[simp] theorem writeReg_div (r : Reg) (v : Word) (s : State) : (writeReg r v s).div = s.div := by
  cases r <;> try rfl
  simp only [writeReg, writeSynced]; split <;> rfl
@[simp] theorem writeReg_program (r : Reg) (v : Word) (s : State) : (writeReg r v s).program = s.program := by
  cases r <;> try rfl
  simp only [writeReg, writeSynced]; split <;> rfl
@[simp] theorem writeReg_inputs (r : Reg) (v : Word) (s : State) : (writeReg r v s).inputs = s.inputs := by
  cases r <;> try rfl
  simp only [writeReg, writeSynced]; split <;> rfl

/-- A bus write never sets an event flag (20_memory.md R71). -/
theorem writeReg_flg (r : Reg) (v : Word) (s : State) (e : Event)
    (h : (writeReg r v s).flg.has e = true) : s.flg.has e = true := by
  cases r with
  | cs =>
    revert h; cases e <;> simp [writeReg, writeCs, Events.has, Events.minus] <;> exact fun h _ => h
  | plain k => exact h
  | div => exact h
  | synced x =>
    revert h; simp only [writeReg, writeSynced]; split <;> exact id

/-- A bus write never empties the pending slot (20_memory.md R65, R66). -/
theorem writeReg_pending (r : Reg) (v : Word) (s : State) (h : s.pending.isSome = true) :
    (writeReg r v s).pending.isSome = true := by
  cases r <;> try exact h
  simp only [writeReg, writeSynced]
  split
  · rfl
  · rfl

/-- A bus write never clears the violation mark (10_state.md R30). -/
theorem writeReg_viol (r : Reg) (v : Word) (s : State) (h : s.viol = true) :
    (writeReg r v s).viol = true := by
  cases r <;> try exact h
  simp only [writeReg, writeSynced]
  split
  · exact h
  · rfl

/-! ### What an access answers -/

theorem loadT_of {i : Nat} {s : State} {r : Reg} (h : regAt s.cfg i = some r) :
    loadT i s = .next (setT (readReg r s).1 (readReg r s).2) := by
  simp [loadT, regRead, h]

theorem regWrite_of {i : Nat} {s : State} {r : Reg} (h : regAt s.cfg i = some r) (v : Word) :
    regWrite i v s = .next (writeReg r v s) := by
  simp [regWrite, h]

theorem readStep_of {i : Nat} {s : State} {r : Reg} (h : regAt s.cfg i = some r) :
    readStep i s = .next (advance (setT (readReg r s).1 (readReg r s).2)) := by
  simp [readStep, loadT_of h, andThen]

theorem writeStep_of {i : Nat} {s : State} {r : Reg} (h : regAt s.cfg i = some r) (v : Word) :
    writeStep i v s = .next (advance (writeReg r v s)) := by
  simp [writeStep, regWrite_of h, andThen]

theorem writeLast_of {i : Nat} {s : State} {r : Reg} (h : regAt s.cfg i = some r) (v : Word) :
    writeLast i v s = .next (respond 0#32 (advance (writeReg r v s))) := by
  simp [writeLast, writeStep_of h, andThen]

theorem readLast_of {i : Nat} {s : State} {r : Reg} (h : regAt s.cfg i = some r)
    (f : Word → Word) :
    readLast i f s = .next (respond (f (readReg r s).1)
      (advance (setT (readReg r s).1 (readReg r s).2))) := by
  simp [readLast, readStep_of h, andThen]

/-! ### Synchronized registers -/

theorem writeSynced_none {s : State} (h : s.pending = none) (x : Synced) (v : Word) :
    writeSynced x v s = { s with pending := some ⟨x, v⟩ } := by
  simp [writeSynced, h]

theorem writeSynced_some {s : State} (h : s.pending ≠ none) (x : Synced) (v : Word) :
    writeSynced x v s = violate s := by
  obtain ⟨p, hp⟩ := Option.ne_none_iff_exists'.1 h
  simp [writeSynced, hp]

/-! ### The status word, bit by bit -/

@[simp] theorem has_clearedBy (c : Cfg) (v : Word) (e : Event) :
    (clearedBy c v).has e = v.getLsbD (c.flagBit e) := by cases e <;> rfl

@[simp] theorem has_enabledBy (c : Cfg) (v : Word) (e : Event) :
    (enabledBy c v).has e = v.getLsbD (c.enableBit e) := by cases e <;> rfl

/-- The flag of `e` in a read of `RTC_CS` (20_memory.md R70). -/
theorem readCs_flagBit {s : State} (hw : s.cfg.wf = true) (e : Event) :
    (readCs s).getLsbD (s.cfg.flagBit e) = s.flg.has e := by
  have h0 : (if wecValue s then s.cfg.wecMask else 0#32).getLsbD (s.cfg.flagBit e) = false := by
    split
    · exact wecMask_flagBit hw e
    · exact BitVec.getLsbD_zero
  simp only [readCs, BitVec.getLsbD_or, flagMask_flagBit hw, enableMask_flagBit hw, h0,
    Bool.or_false]

/-- The enable of `e` in a read of `RTC_CS` (20_memory.md R70). -/
theorem readCs_enableBit {s : State} (hw : s.cfg.wf = true) (e : Event) :
    (readCs s).getLsbD (s.cfg.enableBit e) = s.ie.has e := by
  have h0 : (if wecValue s then s.cfg.wecMask else 0#32).getLsbD (s.cfg.enableBit e) = false := by
    split
    · exact wecMask_enableBit hw e
    · exact BitVec.getLsbD_zero
  simp only [readCs, BitVec.getLsbD_or, flagMask_enableBit hw, enableMask_enableBit hw, h0,
    Bool.or_false, Bool.false_or]

/-- The bit at `WEC_BIT` of a read of `RTC_CS` (20_memory.md R70). -/
theorem readCs_wecBit {s : State} (hw : s.cfg.wf = true) :
    (readCs s).getLsbD s.cfg.wecBit = wecValue s := by
  simp only [readCs, BitVec.getLsbD_or, flagMask_wecBit hw, enableMask_wecBit hw, Bool.false_or]
  split
  · rename_i h; rw [wecMask_wecBit hw, h]
  · rename_i h; rw [BitVec.getLsbD_zero]; exact (Bool.not_eq_true _ ▸ h).symm

/-- A read of `RTC_CS` shows write-enable-complete asserted exactly when no write is pending
(10_state.md R29). -/
theorem asserted_readCs {s : State} (hw : s.cfg.wf = true) :
    s.cfg.asserted (readCs s) = s.pending.isNone := by
  rw [Cfg.asserted, readCs_wecBit hw, wecValue, wecAsserted]
  cases s.pending.isNone <;> cases s.cfg.wecLevel <;> rfl

/-- A read of `RTC_CS` shows the enables. -/
theorem enabledBy_readCs {s : State} (hw : s.cfg.wf = true) :
    enabledBy s.cfg (readCs s) = s.ie :=
  Events.ext_has fun e => by rw [has_enabledBy, readCs_enableBit hw]

/-- What `SetInterrupts` writes has 0 at every flag (43_sync_status_ops.md R180, R184 d). -/
theorem clearedBy_interruptsWord {c : Cfg} (hw : c.wf = true) (set : Events) (on : Bool)
    (t : Word) : clearedBy c (interruptsWord c set on t) = Events.none :=
  Events.ext_has fun e => by
    rw [has_clearedBy, interruptsWord, BitVec.getLsbD_and, BitVec.getLsbD_not, Cfg.flagAll,
      flagMask_flagBit hw]
    simp

/-- What `SetInterrupts` writes at the enables: the operand's value in `S`, the value read elsewhere
(43_sync_status_ops.md R180). -/
theorem interruptsWord_enableBit {c : Cfg} (hw : c.wf = true) (set : Events) (on : Bool)
    (t : Word) (e : Event) : (interruptsWord c set on t).getLsbD (c.enableBit e)
      = if set.has e then on else t.getLsbD (c.enableBit e) := by
  rw [interruptsWord, BitVec.getLsbD_and, BitVec.getLsbD_not, Cfg.flagAll, flagMask_enableBit hw]
  cases on
  · rw [setOrClear, if_neg (by simp), BitVec.getLsbD_and, BitVec.getLsbD_not,
      enableMask_enableBit hw]
    simp only [enableBit_lt hw e, decide_true]
    cases set.has e <;> simp
  · rw [setOrClear, if_pos rfl, BitVec.getLsbD_or, enableMask_enableBit hw]
    simp only [enableBit_lt hw e, decide_true]
    cases set.has e <;> simp

/-- What `ClearFlags` writes at the flags is `S` (43_sync_status_ops.md R183). -/
theorem clearedBy_clearWord {c : Cfg} (hw : c.wf = true) (set : Events) (t : Word) :
    clearedBy c (clearWord c set t) = set :=
  Events.ext_has fun e => by
    rw [has_clearedBy, clearWord, BitVec.getLsbD_or, BitVec.getLsbD_and, BitVec.getLsbD_not,
      Cfg.flagAll, flagMask_flagBit hw, flagMask_flagBit hw]
    simp

/-- What `ClearFlags` writes at the enables is what it read (43_sync_status_ops.md R183). -/
theorem enabledBy_clearWord {c : Cfg} (hw : c.wf = true) (set : Events) (t : Word) :
    enabledBy c (clearWord c set t) = enabledBy c t :=
  Events.ext_has fun e => by
    rw [has_enabledBy, has_enabledBy, clearWord, BitVec.getLsbD_or, BitVec.getLsbD_and,
      BitVec.getLsbD_not, Cfg.flagAll, flagMask_enableBit hw, flagMask_enableBit hw]
    simp [enableBit_lt hw e]

end Sys2Proof.Machine
end

