-- ==== Sys2Proof/Laws/Control.lean ====
section
/-!
SUPPORT. What a controller step can do, said once: acceptance in mode IDLE, nothing in mode HALTED,
and in mode BUSY one bus access followed by the move of `upc` and, at the end, the response
(10_state.md R40 to R43).
-/

namespace Sys2Proof.Machine

open Sys2Proof

/-! ### The three modes -/

theorem controlStep_idle {i : Instr} {m : State → Result} {s : State} (hw : s.cfg.wf = true)
    (hm : s.mode = .idle) : controlStep i m s = .next (accept i s) := by
  simp [controlStep, hw, hm]

theorem controlStep_busy {i : Instr} {m : State → Result} {s : State} (hw : s.cfg.wf = true)
    (hm : s.mode = .busy) : controlStep i m s = m s := by
  simp [controlStep, hw, hm]

theorem controlStep_halted {i : Instr} {m : State → Result} {s : State} (hw : s.cfg.wf = true)
    (hm : s.mode = .halted) : controlStep i m s = .fault .halted := by
  simp [controlStep, hw, hm]

/-- Every operation is accepted the same way (10_state.md R40). -/
theorem exec_idle {i : Instr} {s : State} (hw : s.cfg.wf = true) (hm : s.mode = .idle) :
    exec i s = .next (accept i s) := by
  cases i <;> exact controlStep_idle hw hm

/-- No operation has a step in mode HALTED (10_state.md R43). -/
theorem exec_halted {i : Instr} {s : State} (hw : s.cfg.wf = true) (hm : s.mode = .halted) :
    exec i s = .fault .halted := by
  cases i <;> exact controlStep_halted hw hm

/-- An answer with a next state comes from a well-formed configuration (00_scope.md R7). -/
theorem wf_of_exec_next {i : Instr} {s s' : State} (h : exec i s = .next s') :
    s.cfg.wf = true := by
  by_contra hw
  cases i <;>
    simp [exec, execReset, execSetClockSource, execSetEnabled, execSetCalibration, execSetReset,
      execSetInterrupts, execGetCounter, execSetCounter, execSetAlarm, execGetDivider,
      execSetPrescaler, execWaitForUpdate, execGetFlag, execClearFlags, controlStep, hw] at h

/-! ### The shapes of a micro-step -/

theorem readModifyWrite_read {i : Nat} {f : Word → Word} {s : State} (hu : s.upc = 0#5) :
    readModifyWrite i f s = readStep i s := by
  simp [readModifyWrite, hu]

theorem readModifyWrite_write {i : Nat} {f : Word → Word} {s : State} (hu : s.upc = 1#5) :
    readModifyWrite i f s = writeLast i (f s.t) s := by
  simp [readModifyWrite, hu]

theorem singleStep_zero {m : State → Result} {s : State} (hu : s.upc = 0#5) :
    singleStep m s = m s := by
  simp [singleStep, hu]

/-- How a micro-step ends after its bus access: `upc` advances, or it advances and the controller
responds, or the poll stays (10_state.md R32, R41, R42). -/
inductive Ends (u : State) : State → Prop where
  | goesOn : Ends u (advance u)
  | responds (d : Word) : Ends u (respond d (advance u))
  | stays : Ends u { u with upc := 0#5 }

/-- What a micro-step of a BUSY controller does: one read into `T` or one write, then an end. -/
inductive MicroStep (s s' : State) : Prop where
  | reads (r : Reg) (h : Ends (setT (readReg r s).1 (readReg r s).2) s')
  | writes (r : Reg) (v : Word) (h : Ends (writeReg r v s) s')

theorem readStep_micro {i : Nat} {s s' : State} (h : readStep i s = .next s') :
    MicroStep s s' := by
  cases hr : regAt s.cfg i with
  | none => simp [readStep, loadT, regRead, hr, andThen] at h
  | some r =>
    rw [readStep_of hr] at h
    injection h with h
    exact .reads r (h ▸ .goesOn)

theorem writeStep_micro {i : Nat} {v : Word} {s s' : State} (h : writeStep i v s = .next s') :
    MicroStep s s' := by
  cases hr : regAt s.cfg i with
  | none => simp [writeStep, regWrite, hr, andThen] at h
  | some r =>
    rw [writeStep_of hr] at h
    injection h with h
    exact .writes r v (h ▸ .goesOn)

theorem writeLast_micro {i : Nat} {v : Word} {s s' : State} (h : writeLast i v s = .next s') :
    MicroStep s s' := by
  cases hr : regAt s.cfg i with
  | none => simp [writeLast, writeStep, regWrite, hr, andThen] at h
  | some r =>
    rw [writeLast_of hr] at h
    injection h with h
    exact .writes r v (h ▸ .responds _)

theorem readLast_micro {i : Nat} {f : Word → Word} {s s' : State}
    (h : readLast i f s = .next s') : MicroStep s s' := by
  cases hr : regAt s.cfg i with
  | none => simp [readLast, readStep, loadT, regRead, hr, andThen] at h
  | some r =>
    rw [readLast_of hr] at h
    injection h with h
    exact .reads r (h ▸ .responds _)

theorem readModifyWrite_micro {i : Nat} {f : Word → Word} {s s' : State}
    (h : readModifyWrite i f s = .next s') : MicroStep s s' := by
  unfold readModifyWrite at h
  split at h
  · exact readStep_micro h
  · exact writeLast_micro h
  · exact nomatch h

theorem singleStep_micro {m : State → Result} (hm : ∀ s s', m s = .next s' → MicroStep s s')
    {s s' : State} (h : singleStep m s = .next s') : MicroStep s s' := by
  unfold singleStep at h
  split at h
  · exact hm _ _ h
  · exact nomatch h

theorem resetMicro_micro {s s' : State} (h : resetMicro s = .next s') : MicroStep s s' := by
  unfold resetMicro at h
  dsimp only at h
  split at h
  · exact writeStep_micro h
  · split at h
    · exact writeStep_micro h
    · split at h
      · exact readStep_micro h
      · exact writeStep_micro h
      · exact readStep_micro h
      · exact writeStep_micro h
      · exact writeLast_micro h
      · exact nomatch h

theorem poll_micro {s s' : State}
    (h : andThen (loadT s.cfg.idxCs s) pollDecide = .next s') : MicroStep s s' := by
  cases hr : regAt s.cfg s.cfg.idxCs with
  | none => simp [loadT, regRead, hr, andThen] at h
  | some r =>
    rw [loadT_of hr] at h
    simp only [andThen, pollDecide] at h
    injection h with h
    refine .reads r ?_
    split at h
    · exact h ▸ .responds _
    · exact h ▸ .stays

/-- A BUSY controller's step is one micro-step: one bus access and an end (10_state.md R41). -/
theorem exec_busy_micro {i : Instr} {s s' : State} (hm : s.mode = .busy)
    (h : exec i s = .next s') : MicroStep s s' := by
  have hw := wf_of_exec_next h
  cases i <;>
    simp only [exec, execReset, execSetClockSource, execSetEnabled, execSetCalibration,
      execSetReset, execSetInterrupts, execGetCounter, execSetCounter, execSetAlarm,
      execGetDivider, execSetPrescaler, execWaitForUpdate, execGetFlag, execClearFlags,
      controlStep_busy hw hm] at h
  case reset => exact resetMicro_micro h
  case waitForUpdate => exact singleStep_micro (fun _ _ => poll_micro) h
  case getCounter => exact singleStep_micro (fun _ _ => readLast_micro) h
  case getDivider => exact singleStep_micro (fun _ _ => readLast_micro) h
  case getFlag => exact singleStep_micro (fun _ _ => readLast_micro) h
  case setCounter => exact singleStep_micro (fun _ _ => writeLast_micro) h
  case setAlarm => exact singleStep_micro (fun _ _ => writeLast_micro) h
  case setPrescaler => exact singleStep_micro (fun _ _ => writeLast_micro) h
  all_goals exact readModifyWrite_micro h

/-- What a controller step for `i` can do when it answers a next state. -/
theorem exec_cases {i : Instr} {s s' : State} (h : exec i s = .next s') :
    (s.mode = .idle ∧ s' = accept i s) ∨ (s.mode = .busy ∧ MicroStep s s') := by
  have hw := wf_of_exec_next h
  cases hm : s.mode with
  | idle =>
    rw [exec_idle hw hm] at h
    injection h with h
    exact .inl ⟨rfl, h.symm⟩
  | busy => exact .inr ⟨rfl, exec_busy_micro hm h⟩
  | halted => rw [exec_halted hw hm] at h; exact nomatch h

end Sys2Proof.Machine
end

