-- ==== Sys2Proof/Laws/Decode.lean ====
section
/-!
SUPPORT. The fields of a packed command word (30_encoding.md R100), and the word its fields make.
-/

namespace Sys2Proof

@[simp] theorem opField_packWord (op : BitVec 4) (en : Bool) (arg : Word) :
    opField (packWord op en arg) = op := by
  apply BitVec.eq_of_getLsbD_eq
  intro i hi
  simp only [opField, packWord, BitVec.getLsbD_extractLsb', BitVec.getLsbD_append, hi,
    decide_true, Bool.true_and]
  rw [if_neg (by omega), if_neg (by omega), if_neg (by omega)]
  congr 1; omega

@[simp] theorem rsvField_packWord (op : BitVec 4) (en : Bool) (arg : Word) :
    rsvField (packWord op en arg) = 0#3 := by
  apply BitVec.eq_of_getLsbD_eq
  intro i hi
  simp only [rsvField, packWord, BitVec.getLsbD_extractLsb', BitVec.getLsbD_append, hi,
    decide_true, Bool.true_and]
  rw [if_neg (by omega), if_neg (by omega), if_pos (by omega)]
  simp

@[simp] theorem enField_packWord (op : BitVec 4) (en : Bool) (arg : Word) :
    enField (packWord op en arg) = en := by
  simp only [enField, packWord, BitVec.getLsbD_append]
  rw [if_neg (by omega), if_pos (by omega)]
  simp

@[simp] theorem argField_packWord (op : BitVec 4) (en : Bool) (arg : Word) :
    argField (packWord op en arg) = arg := by
  apply BitVec.eq_of_getLsbD_eq
  intro i hi
  simp only [argField, packWord, BitVec.getLsbD_extractLsb', BitVec.getLsbD_append, hi,
    decide_true, Bool.true_and]
  rw [if_pos (by omega)]
  congr 1; omega

/-- A word with `rsv` 0 is the word of its fields. -/
theorem packWord_fields (c : CommandWord) (h : rsvField c = 0#3) :
    packWord (opField c) (enField c) (argField c) = c := by
  apply BitVec.eq_of_getLsbD_eq
  intro i hi
  simp only [packWord, opField, enField, argField, BitVec.getLsbD_append,
    BitVec.getLsbD_extractLsb', BitVec.getLsbD_ofBool]
  by_cases h1 : i < 32
  · simp [h1]
  · by_cases h2 : i = 32
    · subst h2; simp
    · by_cases h3 : i < 36
      · have hr := congrArg (fun v => v.getLsbD (i - 33)) h
        simp only [rsvField, BitVec.getLsbD_extractLsb', BitVec.getLsbD_zero] at hr
        have e : 33 + (i - 33) = i := by omega
        rw [e] at hr
        have h5 : i - 33 < 3 := by omega
        simp only [h5, decide_true, Bool.true_and] at hr
        have h4 : ¬ (i - 32 = 0) := by omega
        have h6 : ¬ (i - 32 < 1) := by omega
        have h7 : i - 32 - 1 < 3 := by omega
        simp [h1, h6, h7, hr]
      · have h6 : ¬ (i - 32 < 1) := by omega
        have h7 : ¬ (i - 32 - 1 < 3) := by omega
        have e : 36 + (i - 32 - 1 - 3) = i := by omega
        have h8 : i - 32 - 1 - 3 < 4 := by omega
        simp [h1, h6, h7, e, h8]

/-- A packed word is its upper byte and its operand. -/
theorem packWord_eq_append {op : BitVec 4} {en : Bool} {k : BitVec 8} (arg : Word)
    (h : op ++ 0#3 ++ BitVec.ofBool en = k) : packWord op en arg = k ++ arg := by
  subst h; rfl

/-- Masking a packed word masks each field. -/
theorem packWord_and (op op' : BitVec 4) (rsv : BitVec 3) (en en' : Bool) (arg arg' : Word) :
    packWord op en arg &&& (op' ++ rsv ++ BitVec.ofBool en' ++ arg' : CommandWord)
      = packWord (op &&& op') (en && en') (arg &&& arg') := by
  have hb : BitVec.ofBool en &&& BitVec.ofBool en' = BitVec.ofBool (en && en') := by
    cases en <;> cases en' <;> rfl
  have h0 : (0#3 &&& rsv) = 0#3 := by simp
  rw [packWord, packWord, BitVec.and_append, BitVec.and_append, BitVec.and_append, hb, h0]

@[simp] theorem argField_encode (i : Instr) : argField (encode i) = argOf i :=
  argField_packWord _ _ _

@[simp] theorem enField_encode (i : Instr) : enField (encode i) = enOf i :=
  enField_packWord _ _ _

@[simp] theorem opField_encode (i : Instr) : opField (encode i) = opcodeOf i :=
  opField_packWord _ _ _

@[simp] theorem rsvField_encode (i : Instr) : rsvField (encode i) = 0#3 :=
  rsvField_packWord _ _ _

/-- The decoder on a packed word is the opcode map on its fields. -/
theorem decode_packWord (op : BitVec 4) (en : Bool) (arg : Word) :
    decode (packWord op en arg) = decodeOp op en arg := by
  simp [decode]

/-! ### The four operand shapes of the opcode map -/

theorem decodePlain_inv {en : Bool} {arg : Word} {i j : Instr}
    (h : decodePlain en arg j = .command i) : en = false ∧ arg = 0#32 ∧ i = j := by
  cases en
  · by_cases ha : arg = 0#32
    · simp only [decodePlain, ha, if_true] at h
      injection h with h
      exact ⟨rfl, ha, h.symm⟩
    · simp [decodePlain, ha] at h
  · simp [decodePlain] at h

theorem decodeArg_inv {en : Bool} {i j : Instr} (h : decodeArg en j = .command i) :
    en = false ∧ i = j := by
  cases en
  · injection h with h
    exact ⟨rfl, h.symm⟩
  · simp [decodeArg] at h

theorem decodeEn_inv {arg : Word} {i j : Instr} (h : decodeEn arg j = .command i) :
    arg = 0#32 ∧ i = j := by
  by_cases ha : arg = 0#32
  · simp only [decodeEn, ha, if_true] at h
    injection h with h
    exact ⟨ha, h.symm⟩
  · simp [decodeEn, ha] at h

theorem decodeLow_inv {n : Nat} {arg : Word} {i j : Instr}
    (h : decodeLow n arg j = .command i) : arg >>> n = 0#32 ∧ i = j := by
  by_cases ha : arg >>> n = 0#32
  · simp only [decodeLow, ha, if_true] at h
    injection h with h
    exact ⟨ha, h.symm⟩
  · simp [decodeLow, ha] at h

end Sys2Proof
end

