-- ==== Sys2Proof/Laws/PerInstr.lean ====
section
/-!
SUPPORT. Statements made of every instruction, one lemma per constructor. Family `SelectsRow`: the
command word of an instruction selects its row of the opcode map (30_encoding.md R106).
-/

namespace Sys2Proof.Laws.SelectsRow

open Sys2Proof

/-- The word of `i`, masked by its row's mask, is the row's match value. -/
def Statement (i : Instr) : Prop := encode i &&& (tableRow i).mask = (tableRow i).value

theorem reset : Statement .reset := by unfold Statement; decide

theorem setClockSource (arg : Word) : Statement (.setClockSource arg) :=
  (packWord_and _ 0xF#4 7#3 _ true _ 0#32).trans (by simp [opcodeOf, enOf, tableRow]; decide)

theorem setEnabled (en : Bool) : Statement (.setEnabled en) :=
  (packWord_and _ 0xF#4 7#3 _ false _ 0xFFFFFFFF#32).trans (by cases en <;> decide)

theorem setCalibration (arg : Word) : Statement (.setCalibration arg) :=
  (packWord_and _ 0xF#4 7#3 _ true _ 0#32).trans (by simp [opcodeOf, enOf, tableRow]; decide)

theorem setReset (en : Bool) : Statement (.setReset en) :=
  (packWord_and _ 0xF#4 7#3 _ false _ 0xFFFFFFFF#32).trans (by cases en <;> decide)

theorem setInterrupts (set : Events) (en : Bool) : Statement (.setInterrupts set en) :=
  (packWord_and _ 0xF#4 7#3 _ false _ 0xFFFFFFF8#32).trans (by
    rcases set with ⟨p, q, r⟩; cases p <;> cases q <;> cases r <;> cases en <;> decide)

theorem getCounter : Statement .getCounter := by unfold Statement; decide

theorem setCounter (arg : Word) : Statement (.setCounter arg) :=
  (packWord_and _ 0xF#4 7#3 _ true _ 0#32).trans (by simp [opcodeOf, enOf, tableRow]; decide)

theorem setAlarm (arg : Word) : Statement (.setAlarm arg) :=
  (packWord_and _ 0xF#4 7#3 _ true _ 0#32).trans (by simp [opcodeOf, enOf, tableRow]; decide)

theorem getDivider : Statement .getDivider := by unfold Statement; decide

theorem setPrescaler (arg : Word) : Statement (.setPrescaler arg) :=
  (packWord_and _ 0xF#4 7#3 _ true _ 0#32).trans (by simp [opcodeOf, enOf, tableRow]; decide)

theorem waitForUpdate : Statement .waitForUpdate := by unfold Statement; decide

theorem getFlag (flag : Flag) : Statement (.getFlag flag) :=
  (packWord_and _ 0xF#4 7#3 _ true _ 0xFFFFFFFC#32).trans (by
    rcases flag with _ | e
    · decide
    · cases e <;> decide)

theorem clearFlags (set : Events) : Statement (.clearFlags set) :=
  (packWord_and _ 0xF#4 7#3 _ true _ 0xFFFFFFF8#32).trans (by
    rcases set with ⟨p, q, r⟩; cases p <;> cases q <;> cases r <;> decide)

end Sys2Proof.Laws.SelectsRow
end

