-- ==== Sys2Proof/Laws/Step.lean ====
section
/-!
SUPPORT. What a step of the system can do, said once (00_scope.md R11): the agent the input names
moves, and the input is taken.
-/

namespace Sys2Proof.Machine

open Sys2Proof

/-- Taking the input leaves every field but `inputs` and `fresh`. -/
theorem takeInput_eq (s : State) :
    (takeInput s).2 = { s with inputs := (takeInput s).2.inputs, fresh := (takeInput s).2.fresh } := by
  unfold takeInput; split <;> rfl

/-- A state that differs from another in `inputs` and `fresh` alone. -/
def SameMachine (s s0 : State) : Prop := s0 = { s with inputs := s0.inputs, fresh := s0.fresh }

theorem takeInput_same (s : State) : SameMachine s (takeInput s).2 := takeInput_eq s

/-- The input of a step whose schedule names it. -/
theorem takeInput_cons {s : State} {i : Input} {rest : List Input} (h : s.inputs = i :: rest) :
    takeInput s = (i, { s with inputs := rest }) := by
  simp [takeInput, h]

/-- A step on a well-formed configuration is the step of the agent its input names. -/
theorem step_eq {s : State} (hw : s.cfg.wf = true) :
    step s = agentStep (takeInput s).1 (takeInput s).2 := by
  simp [step, systemStep, hw]

/-- A step whose schedule names its input. -/
theorem step_cons {s : State} {i : Input} {rest : List Input} (hw : s.cfg.wf = true)
    (h : s.inputs = i :: rest) : step s = agentStep i { s with inputs := rest } := by
  rw [step_eq hw, takeInput_cons h]

/-- What the controller's turn can do. -/
inductive ControllerMove (s s' : State) : Prop where
  /-- IDLE with no word presented, or HALTED: the turn passes (10_state.md R40, R43) -/
  | passes (h : s.mode ≠ .busy) (e : s' = s)
  /-- a legal word is accepted (10_state.md R40) -/
  | accepts (h : s.mode = .idle) (c : CommandWord) (rest : List CommandWord) (i : Instr)
      (hp : s.program = c :: rest) (hd : decode c = .command i)
      (e : s' = accept i { s with program := rest })
  /-- an illegal word halts the controller (60_exceptions.md R202) -/
  | illegal (h : s.mode = .idle) (c : CommandWord) (rest : List CommandWord) (why : IllegalWord)
      (hp : s.program = c :: rest) (hd : decode c = .illegal why)
      (e : s' = takeFault statusIllegalCmd { s with program := rest })
  /-- a micro-step of the operation in `CMD` (10_state.md R41) -/
  | micro (h : s.mode = .busy) (i : Instr) (hd : decode s.cmd = .command i)
      (hx : exec i s = .next s') (m : MicroStep s s')

theorem controllerStep_cases {s s' : State} (h : controllerStep s = .next s') :
    ControllerMove s s' := by
  unfold controllerStep at h
  split at h
  case h_1 hm =>
    split at h
    case h_1 => injection h with h; exact .passes (by simp [hm]) h.symm
    case h_2 c rest hp =>
      split at h
      case h_1 i hd =>
        rcases exec_cases h with ⟨_, e⟩ | ⟨hb, _⟩
        · exact .accepts hm c rest i hp hd e
        · exact absurd (hm.symm.trans hb) (by decide)
      case h_2 why hd => injection h with h; exact .illegal hm c rest why hp hd h.symm
  case h_2 hm =>
    split at h
    case h_1 i hd => exact .micro hm i hd h (exec_busy_micro hm h)
    case h_2 => exact nomatch h
  case h_3 hm => injection h with h; exact .passes (by simp [hm]) h.symm

/-- What a step can do, agent by agent: `s0` is the state with the input taken. -/
inductive SystemMove (i : Input) (s0 s' : State) : Prop where
  | controller (hi : i.move = .controller) (h : ControllerMove s0 s')
  | sync (hi : i.move = .sync) (e : s' = syncStep i.clk s0)
  | rtcCore (m : RtcMove) (hi : i.move = .rtcCore m) (e : s' = rtcCoreStep m s0)
  | readResponse (hi : i.move = .readResponse) (e : s' = s0)
  | hardwareReset (hi : i.move = .hardwareReset) (e : s' = hardwareReset s0)

/-- Every step that answers a next state is the move of one agent (00_scope.md R11). -/
theorem step_cases {s s' : State} (h : step s = .next s') :
    s.cfg.wf = true ∧ SystemMove (takeInput s).1 (takeInput s).2 s' := by
  by_cases hw : s.cfg.wf = true
  · refine ⟨hw, ?_⟩
    rw [step_eq hw] at h
    unfold agentStep at h
    split at h
    case h_1 hi => exact .controller hi (controllerStep_cases h)
    case h_2 hi => injection h with h; exact .sync hi h.symm
    case h_3 m hi => injection h with h; exact .rtcCore m hi h.symm
    case h_4 hi => injection h with h; exact .readResponse hi h.symm
    case h_5 hi => injection h with h; exact .hardwareReset hi h.symm
  · simp [step, systemStep, hw] at h

/-- What step `n` of a run under a schedule can do: the agent that `σ n` names moves. -/
theorem IsRun.move {σ : Nat → Input} {r : Nat → State} (h : IsRun σ r) (n : Nat) :
    (r n).cfg.wf = true ∧ SystemMove (σ n) { r n with inputs := [] } (r (n + 1)) :=
  step_cases (h n)

/-- A step of `Sync` at which it is enabled empties the pending slot (20_memory.md R67). -/
theorem IsRun.sync_clears {σ : Nat → Input} {r : Nat → State} (h : IsRun σ r) {n : Nat}
    (he : SyncEnabledAt σ r n) (hm : (σ n).move = .sync) : (r (n + 1)).pending = none := by
  obtain ⟨p, hp⟩ := Option.ne_none_iff_exists'.1 he.1
  have hn : agentStep (σ n) { r n with inputs := [] } = .next (r (n + 1)) :=
    (step_cons (s := { r n with inputs := [σ n] }) (h.move n).1 rfl).symm.trans (h n)
  rw [agentStep, hm] at hn
  injection hn with hn
  rw [← hn]
  simp [syncStep, hp, he.2]

end Sys2Proof.Machine
end

