-- ==== Sys2Proof/Tests/Slice0.lean ====
section
/-!
SUPPORT. The model's own tests. Every expected value is from spec/: the vectors of
95_test_vectors.md (default register map, 00_scope.md R6) or the rule the comment cites. Then the
witnesses: for each obligation with hypotheses, a state and operands that meet them.
-/

namespace Sys2Proof.Tests

open Sys2Proof Sys2Proof.Machine

/-! ### Helpers -/

/-- A view of the next state, if there is one. -/
def view {α : Type} (f : State → α) (o : Result) : Option α :=
  match o with
  | .next s => some (f s)
  | .fault _ => none
  | .refused _ => none

/-- Whether an answer is a next state. -/
def isNext (o : Result) : Bool := (view id o).isSome

theorem exists_next {o : Result} (h : isNext o = true) : ∃ s, o = .next s := by
  cases o with
  | next s => exact ⟨s, rfl⟩
  | fault r => exact nomatch h
  | refused r => exact nomatch h

/-- The controller at micro-step `n` of `i`. -/
def busyAt (i : Instr) (n : Nat) (s : State) : State :=
  { s with mode := .busy, cmd := encode i, a := argOf i, b := enOf i, upc := BitVec.ofNat 5 n }

/-- The state after reset with `REG_0F` given. -/
def withConfig (v : Word) : State := { State.reset with w := State.reset.w.set 0x0F v }

/-- The state after reset with `RTC_CS` reading `v`: flags bits 0 to 2, enables bits 3 to 5, a write to
the counter pending when bit 6 is 0. -/
def withStatus (v : Word) : State :=
  { State.reset with
    flg := ⟨v.getLsbD 0, v.getLsbD 2, v.getLsbD 1⟩
    ie := ⟨v.getLsbD 3, v.getLsbD 5, v.getLsbD 4⟩
    pending := if v.getLsbD 6 then none else some ⟨.cnt, 5#32⟩ }

/-- The state after reset with a write pending. -/
def withPending (x : Synced) (v : Word) : State := { State.reset with pending := some ⟨x, v⟩ }

/-- A state whose next inputs are given. -/
def withInputs (ins : List Input) (s : State) : State := { s with inputs := ins }

/-- The controller's turn. -/
def turn : Input := ⟨.controller, false⟩

/-- The default map with another choice for a read of a register with a pending write. -/
def withReads (p : PendingRead) (s : State) : State :=
  { s with cfg := { s.cfg with pendingRead := p } }

/-- The operation alone from IDLE, all its micro-steps: `REG_0F`, and the response. -/
def configAfter (i : Instr) (before : Word) : Option (Word × Response) :=
  view (fun s => (s.reg0F, s.resp)) (runAlone i 3 (withConfig before))

/-- The operation alone from IDLE, `n` steps: what `RTC_CS` reads, and the response. -/
def statusAfter (i : Instr) (n : Nat) (before : Word) : Option (Word × Response) :=
  view (fun s => (readCs s, s.resp)) (runAlone i n (withStatus before))

/-- The response `(OK, data)`. -/
def ok (data : Word) : Response := ⟨0#2, data⟩

/-! ### Decoding (30_encoding.md R106, R107; 95_test_vectors.md 2.1) -/

/-- One word a family, its bits as R100 and R106 lay them out. -/
theorem test_decode_bits :
    decode (0b0000#4 ++ 0b000#3 ++ 0b0#1 ++ 0#32) = .command .reset
      ∧ decode (0b0001#4 ++ 0b000#3 ++ 0b0#1 ++ 0b10#32) = .command (.setClockSource 2#32)
      ∧ decode (0b0101#4 ++ 0b000#3 ++ 0b1#1 ++ 0b101#32)
        = .command (.setInterrupts ⟨true, false, true⟩ true)
      ∧ decode (0b1000#4 ++ 0b000#3 ++ 0b0#1 ++ 0b111100#32) = .command (.setAlarm 60#32)
      ∧ decode (0b1100#4 ++ 0b000#3 ++ 0b0#1 ++ 0b10#32) = .command (.getFlag (.event .alr)) := by
  decide

/-- The illegal words of the table. -/
theorem test_decode_illegal :
    [0x0000000001#40, 0x0100000000#40, 0x0200000000#40, 0x1100000002#40, 0x2100000001#40,
      0x5000000008#40, 0xB100000000#40, 0xC000000004#40, 0xE000000000#40, 0xF000000000#40,
      0xFFFFFFFFFF#40].map decode
      = [.illegal .strayArg, .illegal .strayEn, .illegal .reservedBits, .illegal .strayEn,
        .illegal .strayArg, .illegal .strayArg, .illegal .strayEn, .illegal .strayArg,
        .illegal .reservedOp, .illegal .reservedOp, .illegal .reservedBits] := by
  decide

/-- The words the encoder gives are those of the table. -/
theorem test_encode_words :
    [Instr.setEnabled true, .setCalibration 255#32, .setReset true,
      .setInterrupts ⟨false, false, false⟩ false, .setCounter 0xFFFFFFFF#32,
      .setPrescaler 0xFFFFF#32, .clearFlags ⟨true, true, true⟩].map encode
      = [0x2100000000#40, 0x30000000FF#40, 0x4100000000#40, 0x5000000000#40, 0x70FFFFFFFF#40,
        0xA0000FFFFF#40, 0xD000000007#40] := by
  decide

/-- The host's two hooks: the table's numbering, and the first step after reset. -/
theorem test_first_instruction :
    decodeTableWord 40 0xB000000000 = some .waitForUpdate ∧ decodeTableWord 40 0xE000000000 = none
      ∧ view (fun s => (s.mode, s.cmd, s.b, s.upc)) (step (State.reset.withFetchWord 40 0x2100000000))
        = some (.busy, 0x2100000000#40, true, 0#5)
      ∧ view (fun s => (s.mode, s.resp)) (step (State.reset.withFetchWord 40 0xE000000000))
        = some (.halted, ⟨2#2, 0#32⟩) := by
  decide

/-- Call notation is interchangeable (30_encoding.md R109). -/
theorem test_assemble_call :
    assemble defaultCfg "SetClockSource(LSE)".toList = some (.setClockSource 1#32)
      ∧ assemble defaultCfg "GetCounter()".toList = some .getCounter
      ∧ assemble defaultCfg ("SetInterrupts(".toList ++ [openBrace] ++ "OW".toList
        ++ [closeBrace] ++ ", 1)".toList) = some (.setInterrupts ⟨true, false, false⟩ true)
      ∧ assemble defaultCfg "SetAlarm(60".toList = none := by
  decide

/-! ### Well-formedness (00_scope.md R7, 60_exceptions.md R201) -/

/-- The default map is well-formed, and for each clause of R7 a map that breaks it is not. -/
theorem test_cfg_wellFormed : defaultCfg.wf = true
    ∧ [{ defaultCfg with base := 0x400D8002#32 }, { defaultCfg with base := 0xFFFFFFC0#32 },
        { defaultCfg with idxBkp := Vector.replicate 14 0 }, { defaultCfg with idxCtrl := 0x0D },
        { defaultCfg with idxCfg := 0x0E }, { defaultCfg with idxCnt := 0x15 },
        { defaultCfg with idxCnt := 0x11 }].map Cfg.wf = List.replicate 7 false
    ∧ [{ defaultCfg with wecBit := 32 }, { defaultCfg with srcW := 1 },
        { defaultCfg with srcLsb := 31 }, { defaultCfg with calLsb := 25 },
        { defaultCfg with enBit := 3 }, { defaultCfg with fOw := 1 },
        { defaultCfg with codeLse := 0#32 }, { defaultCfg with codeHse := 4#32 },
        { defaultCfg with resetCfg := 0x8004#32 },
        { defaultCfg with resetCfg := 0x8010#32 }].map Cfg.wf = List.replicate 10 false := by
  decide

/-- An operand at the edge of its range is well-formed, one past it is not. -/
theorem test_instr_wellFormed :
    [Instr.setClockSource 3#32, .setCalibration 255#32, .setPrescaler 0xFFFFF#32].map
        (Instr.wellFormed defaultCfg) = [true, true, true]
      ∧ [Instr.setClockSource 4#32, .setCalibration 256#32, .setPrescaler 0x100000#32].map
        (Instr.wellFormed defaultCfg) = [false, false, false]
      ∧ Instr.wellFormed { defaultCfg with fOw := 1 } .reset = false := by
  decide

/-- A machine with an ill-formed map is refused (00_scope.md R7). -/
theorem test_illFormed_refused :
    (match step { State.reset with cfg := { defaultCfg with fOw := 1 } } with
      | .refused .illFormedCfg => true
      | _ => false) = true := by
  decide

/-! ### The configuration word (95_test_vectors.md 2.2) -/

theorem test_setClockSource :
    configAfter (.setClockSource 2#32) 0x00008010#32 = some (0x00008018#32, ok 0#32)
      ∧ configAfter (.setClockSource 0#32) 0xFFFFFFFF#32 = some (0xFFFFFFF3#32, ok 0#32) := by
  decide

theorem test_setEnabled :
    configAfter (.setEnabled true) 0x00008000#32 = some (0x00008010#32, ok 0#32)
      ∧ configAfter (.setEnabled false) 0xFFFFFFFF#32 = some (0xFFFFFFEF#32, ok 0#32) := by
  decide

theorem test_setCalibration :
    configAfter (.setCalibration 0xA5#32) 0xFFFFFFFF#32 = some (0xFFFFF4BF#32, ok 0#32)
      ∧ configAfter (.setCalibration 0x80#32) 0x00008010#32 = some (0x00009010#32, ok 0#32) := by
  decide

theorem test_setReset :
    configAfter (.setReset true) 0x00008010#32 = some (0x80008010#32, ok 0#32)
      ∧ configAfter (.setReset false) 0xFFFFFFFF#32 = some (0x7FFFFFFF#32, ok 0#32) := by
  decide

/-- Out of range: halted with `PRECOND_FAIL`, `REG_0F` unchanged, the word not latched. -/
theorem test_precond_fail :
    [Instr.setClockSource 4#32, .setCalibration 256#32, .setPrescaler 0x100000#32].map
        (fun i => view (fun s => (s.mode, s.resp, s.reg0F, s.cmd)) (exec i (withConfig 0x8000#32)))
      = List.replicate 3 (some (.halted, ⟨1#2, 0#32⟩, 0x8000#32, 0#40)) := by
  decide

/-! ### The RTC values (95_test_vectors.md 2.3) -/

theorem test_getCounter :
    view (fun s => s.resp) (runAlone .getCounter 2 { State.reset with cnt := 0x3C#32 })
        = some (ok 0x3C#32)
      ∧ [PendingRead.old, .new].map (fun p => view (fun s => s.resp)
          (runAlone .getCounter 2 (withReads p { withPending .cnt 5#32 with cnt := 1#32 })))
        = [some (ok 1#32), some (ok 5#32)] := by
  decide

theorem test_setCounter :
    view (fun s => (s.pending, s.cnt, s.resp))
        (runAlone (.setCounter 0x12345678#32) 2 { State.reset with cnt := 1#32 })
        = some (some ⟨.cnt, 0x12345678#32⟩, 1#32, ok 0#32)
      ∧ view (fun s => (s.viol, s.pending.isSome, s.resp))
        (runAlone (.setCounter 5#32) 2 (withPending .cnt 5#32)) = some (true, true, ok 0#32) := by
  decide

theorem test_setAlarm :
    view (fun s => (s.pending, s.viol)) (runAlone (.setAlarm 60#32) 2 State.reset)
        = some (some ⟨.alrm, 0x3C#32⟩, false)
      ∧ view (fun s => (s.viol, s.pending.isSome))
        (runAlone (.setAlarm 7#32) 2 (withPending .cnt 5#32)) = some (true, true) := by
  decide

theorem test_getDivider :
    view (fun s => (s.resp, s.div)) (runAlone .getDivider 2 { State.reset with div := 0x1234#32 })
      = some (ok 0x1234#32, 0x1234#32) := by
  decide

theorem test_setPrescaler :
    view (fun s => s.pending) (runAlone (.setPrescaler 0xFFFFF#32) 2 State.reset)
        = some (some ⟨.prl, 0xFFFFF#32⟩)
      ∧ view (fun s => s.pending) (runAlone (.setPrescaler 0#32) 2 State.reset)
        = some (some ⟨.prl, 0#32⟩) := by
  decide

/-- One `Sync` step commits each register; with the clock stopped it does not. -/
theorem test_sync :
    view (fun s => (s.cnt, s.pending))
        (step (withInputs [⟨.sync, true⟩] (withPending .cnt 0x12345678#32)))
        = some (0x12345678#32, none)
      ∧ view (fun s => (s.alrm, s.prl))
        (step (withInputs [⟨.sync, true⟩] (withPending .alrm 0x3C#32))) = some (0x3C#32, 0#32)
      ∧ view (fun s => (s.prl, s.pending))
        (step (withInputs [⟨.sync, false⟩] (withPending .prl 9#32)))
        = some (0#32, some ⟨.prl, 9#32⟩) := by
  decide

/-- The write of the divider is ignored, and a raw access by byte address finds it. -/
theorem test_divider_write :
    view (fun s => (s.div, s.pending))
        (memWrite 0x400D8044#32 4 0xFFFFFFFF#32 { State.reset with div := 0x1234#32 })
      = some (0x1234#32, none) := by
  decide

/-! ### The status word (95_test_vectors.md 2.4) -/

theorem test_setInterrupts :
    statusAfter (.setInterrupts ⟨true, false, false⟩ true) 3 0x45#32 = some (0x4D#32, ok 0#32)
      ∧ statusAfter (.setInterrupts ⟨true, false, true⟩ false) 3 0x6D#32
        = some (0x65#32, ok 0#32) := by
  decide

/-- The words the two operations write. -/
theorem test_status_words :
    interruptsWord defaultCfg ⟨true, true, true⟩ true 0x07#32 = 0x38#32
      ∧ interruptsWord defaultCfg ⟨false, true, false⟩ true 0x4D#32 = 0x68#32
      ∧ clearWord defaultCfg ⟨true, true, false⟩ 0x7F#32 = 0x7D#32
      ∧ clearWord defaultCfg ⟨false, false, false⟩ 0x3F#32 = 0x38#32 := by
  decide

theorem test_clearFlags :
    statusAfter (.clearFlags ⟨true, true, false⟩) 3 0x7F#32 = some (0x7A#32, ok 0#32)
      ∧ statusAfter (.clearFlags ⟨false, false, false⟩) 3 0x3F#32 = some (0x3F#32, ok 0#32) := by
  decide

theorem test_getFlag :
    [Flag.wec, .event .ow, .event .alr, .event .sec].map
        (fun f => statusAfter (.getFlag f) 2 0x4D#32)
        = [some (0x4D#32, ok 1#32), some (0x4D#32, ok 1#32), some (0x4D#32, ok 1#32),
          some (0x4D#32, ok 0#32)]
      ∧ statusAfter (.getFlag .wec) 2 0x0D#32 = some (0x0D#32, ok 0#32) := by
  decide

/-- WEC asserted as 0 on a platform with `WEC_LEVEL` 0 (00_scope.md R6, R10). -/
theorem test_getFlag_low_level :
    view (fun s => s.resp) (runAlone (.getFlag .wec) 2
        { State.reset with cfg := { defaultCfg with wecLevel := false } }) = some (ok 1#32) := by
  decide

theorem test_waitForUpdate :
    view (fun s => (s.mode, s.resp)) (runAlone .waitForUpdate 2 (withStatus 0x40#32))
        = some (.idle, ok 0#32)
      ∧ view (fun s => (s.mode, s.upc)) (runAlone .waitForUpdate 2 (withStatus 0x00#32))
        = some (.busy, 0#5) := by
  decide

/-- A flag raised between the read and the write: kept if the operand does not name it, cleared if it
does (the interleaving vectors). -/
theorem test_window :
    view (fun s => readCs s) (runSchedule [turn, ⟨.rtcCore ⟨none, none, ⟨false, false, true⟩⟩, true⟩,
        turn] (busyAt (.clearFlags ⟨true, false, false⟩) 0 (withStatus 0x41#32))) = some 0x42#32
      ∧ view (fun s => readCs s) (runSchedule [turn,
        ⟨.rtcCore ⟨none, none, ⟨true, false, false⟩⟩, true⟩, turn]
        (busyAt (.clearFlags ⟨true, false, false⟩) 0 (withStatus 0x40#32))) = some 0x40#32 := by
  decide

/-- The interrupt line rises with the enable (program P2, command 1). -/
theorem test_irq : irq (withStatus 0x45#32) = false ∧ irq (withStatus 0x4D#32) = true := by
  decide

/-! ### Reset (95_test_vectors.md 2.5) -/

/-- The ON and OFF steps on `REG_0E` 0x12345678. -/
theorem test_reset_domain :
    view (fun s => s.reg0E) (exec .reset (busyAt .reset 20
        { State.reset with t := 0x12345678#32 })) = some 0x12345E78#32
      ∧ view (fun s => s.reg0E) (exec .reset (busyAt .reset 22
        { State.reset with t := 0x12345E78#32 })) = some 0x12340E40#32 := by
  decide

/-- The write of the last backup word, and the last micro-step. -/
theorem test_reset_words :
    view (fun s => (s.w[0x0D], s.w[0x0E])) (exec .reset (busyAt .reset 13
        { State.reset with w := Vector.replicate 16 7#32 })) = some (0#32, 7#32)
      ∧ view (fun s => (s.reg0F, s.mode, s.resp)) (exec .reset (busyAt .reset 23 State.reset))
        = some (0x8000#32, .idle, ok 0#32) := by
  decide

/-! ### Witnesses: a state and operands that meet the hypotheses of each obligation

At the edges: the first and last micro-step of each stretch, each pending register, each mode. -/

theorem witness_EncodeOfDecode :
    decode 0xA000100000#40 = .command (.setPrescaler 0x100000#32)
      ∧ decode 0x0000000000#40 = .command .reset := by decide

theorem witness_LegalWordsSelectOneRow :
    tableRow .reset ∈ opcodeRows ∧ (tableRow .reset).selects 0#40 = true
      ∧ (tableRow (.clearFlags Events.none)).selects 0xD000000007#40 = true := by decide

/-- An idle controller, and the operands on both sides of each range check. -/
theorem witness_acceptance :
    State.reset.mode = .idle ∧ State.reset.cfg.wf = true
      ∧ (∃ src, 3#32 = State.reset.cfg.srcCode src)
      ∧ (∀ src, 4#32 ≠ State.reset.cfg.srcCode src)
      ∧ (255#32).toNat ≤ 255 ∧ (256#32).toNat > 255
      ∧ (0xFFFFF#32).toNat ≤ 0xFFFFF ∧ (0x100000#32).toNat > 0xFFFFF := by
  refine ⟨rfl, by decide, ⟨.hse, by decide⟩, ?_, by decide⟩
  intro src
  cases src <;> decide

theorem witness_IllFormedMapRefused :
    State.reset.cfg.wf = true ∧ { defaultCfg with idxCnt := 0x15 }.wf = false := by decide

/-- The micro-steps where the clauses of `ResetOperation` meet, and each register at 0x10 to 0x14. -/
theorem witness_ResetOperation :
    State.reset.cfg.wf = true ∧ (busyAt .reset 0 State.reset).mode = .busy
      ∧ [0, 13, 14, 18, 19, 20, 21, 22, 23].map (fun n => (busyAt .reset n State.reset).upc)
        = [0#5, 13#5, 14#5, 18#5, 19#5, 20#5, 21#5, 22#5, 23#5]
      ∧ 0x10 + (14 - 14) = syncedIdx defaultCfg .cnt ∧ 0x10 + (15 - 14) = defaultCfg.idxDiv
      ∧ 0x10 + (16 - 14) = syncedIdx defaultCfg .prl ∧ 0x10 + (17 - 14) = syncedIdx defaultCfg .alrm
      ∧ 0x10 + (18 - 14) = defaultCfg.idxCs
      ∧ State.reset.pending = none ∧ (withPending .cnt 5#32).pending ≠ none := by decide

/-- Both micro-steps of a read-modify-write operation, and an operand that is a source code. -/
theorem witness_readModifyWrite :
    State.reset.cfg.wf = true
      ∧ (busyAt (.setEnabled true) 0 State.reset).mode = .busy
      ∧ (busyAt (.setEnabled true) 0 State.reset).upc = 0#5
      ∧ (busyAt (.setEnabled true) 1 State.reset).mode = .busy
      ∧ (busyAt (.setEnabled true) 1 State.reset).upc = 1#5
      ∧ 3#32 = defaultCfg.srcCode .hse := by decide

/-- The latch `A` holds the operand's event set, in both micro-steps. -/
theorem witness_SetInterruptsOperation :
    (busyAt (.setInterrupts ⟨true, false, true⟩ true) 0 State.reset).a
        = Events.toArg ⟨true, false, true⟩
      ∧ (busyAt (.setInterrupts ⟨true, false, true⟩ true) 1 State.reset).upc = 1#5
      ∧ (busyAt (.setInterrupts ⟨true, false, true⟩ true) 1 State.reset).mode = .busy := by decide

theorem witness_ClearFlagsOperation :
    (busyAt (.clearFlags ⟨false, true, true⟩) 1 State.reset).a = Events.toArg ⟨false, true, true⟩
      ∧ (busyAt (.clearFlags ⟨false, true, true⟩) 1 State.reset).upc = 1#5
      ∧ (busyAt (.clearFlags ⟨false, true, true⟩) 0 State.reset).upc = 0#5 := by decide

theorem witness_GetFlagOperation :
    (busyAt (.getFlag .wec) 0 State.reset).a = Flag.toArg .wec
      ∧ (busyAt (.getFlag (.event .sec)) 0 State.reset).a = Flag.toArg (.event .sec)
      ∧ (busyAt (.getFlag .wec) 0 State.reset).upc = 0#5
      ∧ (busyAt (.getFlag .wec) 0 State.reset).mode = .busy := by decide

/-- Nothing pending to the counter (none at all, or a write to another register), and a write to it
pending under each `PENDING_READ`. -/
theorem witness_GetCounterOperation :
    (∀ v, State.reset.pending ≠ some ⟨.cnt, v⟩)
      ∧ (∀ v, (withPending .alrm 7#32).pending ≠ some ⟨.cnt, v⟩)
      ∧ (withPending .cnt 5#32).pending = some ⟨.cnt, 5#32⟩
      ∧ (withReads .old (withPending .cnt 5#32)).cfg.pendingRead = .old
      ∧ (withReads .new (withPending .cnt 5#32)).cfg.pendingRead = .new
      ∧ (withReads .either (withPending .cnt 5#32)).cfg.pendingRead = .either
      ∧ (withReads .new (withPending .cnt 5#32)).cfg.wf = true
      ∧ (busyAt .getCounter 0 (withPending .cnt 5#32)).upc = 0#5
      ∧ (busyAt .getCounter 0 (withPending .cnt 5#32)).mode = .busy := by
  refine ⟨nofun, ?_, ?_⟩
  · intro v h
    simp [withPending] at h
  · decide

/-- The one micro-step of an operation with none or a write pending. -/
theorem witness_singleStep :
    (busyAt (.setAlarm 60#32) 0 State.reset).mode = .busy
      ∧ (busyAt (.setAlarm 60#32) 0 State.reset).upc = 0#5
      ∧ (busyAt (.setAlarm 60#32) 0 State.reset).pending = none
      ∧ (busyAt (.setAlarm 60#32) 0 (withPending .prl 9#32)).pending ≠ none
      ∧ (busyAt (.setAlarm 60#32) 0 (withPending .prl 9#32)).cfg.wf = true := by decide

/-- An idle controller with its turn and a word: illegal, out of range, good. -/
theorem witness_AcceptingACommand :
    (State.reset.withFetchWord 40 0xE000000000).mode = .idle
      ∧ (State.reset.withFetchWord 40 0xE000000000).inputs = turn :: []
      ∧ (State.reset.withFetchWord 40 0xE000000000).program = 0xE000000000#40 :: []
      ∧ decode 0xE000000000#40 = .illegal .reservedOp
      ∧ decode 0x3000000100#40 = .command (.setCalibration 256#32)
      ∧ precond defaultCfg (.setCalibration 256#32) = false
      ∧ decode 0x30000000FF#40 = .command (.setCalibration 255#32)
      ∧ precond defaultCfg (.setCalibration 255#32) = true
      ∧ (State.reset.withFetchWord 40 0xE000000000).cfg.wf = true := by decide

/-- Every agent but the hardware reset may move while the controller is halted. -/
theorem witness_HaltedUntilHardwareReset :
    ∀ m ∈ [Move.controller, .sync, .rtcCore ⟨some 1#32, none, ⟨true, false, false⟩⟩, .readResponse],
      (∃ s', step (withInputs [⟨m, true⟩] { withPending .cnt 5#32 with mode := .halted }) = .next s')
        ∧ (takeInput (withInputs [⟨m, true⟩] State.reset)).1.move ≠ .hardwareReset := by
  intro m hm
  constructor
  · apply exists_next
    revert m
    decide
  · revert m
    decide

theorem witness_StepRunsDecoded :
    (State.reset.withFetchWord 40 0x6000000000).mode = .idle
      ∧ (State.reset.withFetchWord 40 0x6000000000).program = [0x6000000000#40]
      ∧ decode 0x6000000000#40 = .command .getCounter
      ∧ (withInputs [turn] (busyAt .getCounter 0 State.reset)).mode = .busy
      ∧ (withInputs [turn] (busyAt .getCounter 0 State.reset)).inputs = turn :: []
      ∧ decode (busyAt .getCounter 0 State.reset).cmd = .command .getCounter := by decide

theorem witness_agents :
    (withInputs [⟨.hardwareReset, false⟩] State.reset).inputs = ⟨.hardwareReset, false⟩ :: []
      ∧ (withInputs [⟨.sync, true⟩] (withPending .cnt 5#32)).inputs = ⟨.sync, true⟩ :: []
      ∧ (withPending .cnt 5#32).pending = some ⟨.cnt, 5#32⟩ ∧ State.reset.pending = none
      ∧ (withInputs [⟨.rtcCore ⟨some 1#32, none, Events.none⟩, true⟩] State.reset).inputs
        = ⟨.rtcCore ⟨some 1#32, none, Events.none⟩, true⟩ :: []
      ∧ State.reset.cfg.wf = true := by decide

/-- First and last plain word, and an index of each synchronized register. -/
theorem witness_bus :
    0 < 16 ∧ 15 < 16 ∧ 14 ≠ 15 ∧ State.reset.cfg.wf = true ∧ State.reset.pending = none
      ∧ (withPending .prl 9#32).pending ≠ none
      ∧ (withPending .prl 9#32).pending = some ⟨.prl, 9#32⟩
      ∧ (withReads .old State.reset).cfg.pendingRead = .old
      ∧ [Synced.cnt, .alrm, .prl].map (syncedIdx defaultCfg) = [0x10, 0x13, 0x12] := by decide

/-- A word of the block by its first and last byte address; a half-word, an unaligned address and the
word past the end. -/
theorem witness_RawBusAccess :
    busIndex defaultCfg 0x400D8000#32 4 = some 0 ∧ busIndex defaultCfg 0x400D8050#32 4 = some 0x14
      ∧ busIndex defaultCfg 0x400D8000#32 2 = none ∧ busIndex defaultCfg 0x400D8002#32 4 = none
      ∧ busIndex defaultCfg 0x400D8054#32 4 = none ∧ busIndex defaultCfg 0x400D7FFC#32 4 = none := by
  decide

/-- A status word has bits that are none of the seven named ones. -/
theorem witness_StatusWordRead :
    7 ≠ defaultCfg.fOw ∧ 7 ≠ defaultCfg.fAlr ∧ 7 ≠ defaultCfg.fSec ∧ 7 ≠ defaultCfg.ieOw
      ∧ 7 ≠ defaultCfg.ieAlr ∧ 7 ≠ defaultCfg.ieSec ∧ 7 ≠ defaultCfg.wecBit
      ∧ (withPending .cnt 5#32).pending ≠ none ∧ State.reset.pending = none := by decide

theorem witness_FieldInsertLaws :
    (255#32).toNat < 2 ^ 8 ∧ 24 + 8 ≤ 32 ∧ (0xFFFFFFFF#32).toNat < 2 ^ 32 ∧ 0 + 32 ≤ 32
      ∧ 31 < 32 ∧ 0 ≠ 31 := by decide

theorem witness_ConfigOperationsCommute :
    State.reset.cfg.wf = true ∧ State.reset.mode = .idle
      ∧ IsConfigOp (.setClockSource 3#32) ∧ IsConfigOp (.setCalibration 255#32)
      ∧ opcodeOf (.setClockSource 3#32) ≠ opcodeOf (.setCalibration 255#32)
      ∧ precond State.reset.cfg (.setClockSource 3#32) = true
      ∧ precond State.reset.cfg (.setCalibration 255#32) = true :=
  ⟨by decide, rfl, .inl ⟨_, rfl⟩, .inr (.inr (.inl ⟨_, rfl⟩)), by decide, by decide, by decide⟩

/-- The controller executes `i` at micro-step `n`. -/
theorem executing_busyAt {i : Instr} {n : Nat} {s : State} (hp : precond s.cfg i = true)
    (hn : (BitVec.ofNat 5 n).toNat < microCount i) : Executing i (busyAt i n s) :=
  ⟨rfl, rfl, rfl, rfl, hp, hn⟩

/-- The first and the last micro-step of `Reset`, the poll with and without a write pending. -/
theorem witness_microSteps :
    (Executing .reset (busyAt .reset 0 State.reset)
        ∧ ∃ s', exec .reset (busyAt .reset 0 State.reset) = .next s')
      ∧ (Executing .reset (busyAt .reset 23 State.reset)
        ∧ ∃ s', exec .reset (busyAt .reset 23 State.reset) = .next s')
      ∧ (Executing .waitForUpdate (busyAt .waitForUpdate 0 State.reset)
        ∧ ∃ s', exec .waitForUpdate (busyAt .waitForUpdate 0 State.reset) = .next s')
      ∧ (Executing .waitForUpdate (busyAt .waitForUpdate 0 (withPending .cnt 5#32))
        ∧ ∃ s', exec .waitForUpdate (busyAt .waitForUpdate 0 (withPending .cnt 5#32)) = .next s') :=
  ⟨⟨executing_busyAt rfl (by decide), exists_next (by decide)⟩,
    ⟨executing_busyAt rfl (by decide), exists_next (by decide)⟩,
    ⟨executing_busyAt rfl (by decide), exists_next (by decide)⟩,
    ⟨executing_busyAt rfl (by decide), exists_next (by decide)⟩⟩

/-- The invariant holds in each mode, and each agent's step answers a next state. -/
theorem witness_Inv :
    Inv (busyAt .reset 23 State.reset) ∧ Inv { State.reset with mode := .halted }
      ∧ ∀ m ∈ [Move.controller, .sync, .rtcCore ⟨none, none, Events.all⟩, .readResponse,
          .hardwareReset],
        ∃ s', step (withInputs [⟨m, true⟩] (busyAt .reset 23 State.reset)) = .next s' := by
  refine ⟨⟨by decide, fun _ => ⟨.reset, executing_busyAt rfl (by decide)⟩⟩, ⟨by decide, nofun⟩, ?_⟩
  intro m hm
  apply exists_next
  revert m
  decide

/-- The mark already set; and a step in which it rises. -/
theorem witness_ViolationMark :
    ((withInputs [turn] { State.reset with viol := true }).viol = true
        ∧ ∃ s', step (withInputs [turn] { State.reset with viol := true }) = .next s')
      ∧ (busyAt (.setAlarm 7#32) 0 (withPending .cnt 5#32)).viol = false
      ∧ view (fun s => s.viol)
        (step (withInputs [turn] (busyAt (.setAlarm 7#32) 0 (withPending .cnt 5#32))))
        = some true :=
  ⟨⟨rfl, exists_next (by decide)⟩, by decide, by decide⟩

/-- A flag that rises, and a flag that falls. -/
theorem witness_OnlyRtcCoreRaisesFlags :
    State.reset.flg.has .sec = false
      ∧ view (fun s => s.flg.has .sec) (step (withInputs
        [⟨.rtcCore ⟨none, none, ⟨false, false, true⟩⟩, true⟩] State.reset)) = some true
      ∧ (withStatus 0x41#32).flg.has .ow = true
      ∧ view (fun s => s.flg.has .ow) (step (withInputs [turn]
        (busyAt (.clearFlags ⟨true, false, false⟩) 1 (withStatus 0x41#32)))) = some false := by
  decide

/-- Write-enable-complete rises, and falls. -/
theorem witness_WriteEnableCompleteMoves :
    (withPending .cnt 5#32).pending ≠ none
      ∧ view (fun s => s.pending) (step (withInputs [⟨.sync, true⟩] (withPending .cnt 5#32)))
        = some none
      ∧ State.reset.pending = none
      ∧ view (fun s => s.pending.isSome)
        (step (withInputs [turn] (busyAt (.setPrescaler 9#32) 0 State.reset))) = some true := by
  decide

/-- A plain word that changes, under `Reset` and under a configuration operation. -/
theorem witness_PlainWordWriters :
    view (fun s => (State.reset.w[15], s.w[15]))
        (step (withInputs [turn] (busyAt .reset 23 State.reset))) = some (0#32, 0x8000#32)
      ∧ view (fun s => (State.reset.w[15], s.w[15]))
        (step (withInputs [turn] (busyAt (.setEnabled true) 1 State.reset)))
        = some (0#32, 0x10#32) := by
  decide

/-- The alarm and the reload value change by a commit; and the operations that can violate. -/
theorem witness_AlarmAndReloadWriters :
    view (fun s => (State.reset.alrm, s.alrm))
        (step (withInputs [⟨.sync, true⟩] (withPending .alrm 60#32))) = some (0#32, 60#32)
      ∧ view (fun s => (State.reset.prl, s.prl))
        (step (withInputs [⟨.sync, true⟩] (withPending .prl 9#32))) = some (0#32, 9#32)
      ∧ WritesSynchronized (busyAt (.setAlarm 7#32) 0 (withPending .cnt 5#32)) :=
  ⟨by decide, by decide, rfl, .inr (.inr (.inl ⟨7#32, by decide⟩))⟩

theorem witness_operationsAlone :
    State.reset.cfg.wf = true ∧ State.reset.mode = .idle
      ∧ precond defaultCfg (.setClockSource 3#32) = true
      ∧ configResult defaultCfg State.reset.w[0x0F] (.setClockSource 3#32) = some 0x0000000C#32
      ∧ enablesResult (withStatus 0x4D#32).ie (.setInterrupts ⟨false, true, false⟩ true)
        = some ⟨true, true, false⟩
      ∧ enablesResult (withStatus 0x4D#32).ie (.clearFlags ⟨true, false, false⟩)
        = some ⟨true, false, false⟩ := by decide

/-- Under way before the read and before the write, each agent able to step. -/
theorem witness_ConfigOperationUnderEverySchedule :
    configResult defaultCfg 0x8000#32 (.setEnabled true) = some 0x8010#32
      ∧ ConfigUnderWay 0x8000#32 (.setEnabled true)
        (withInputs [turn] (busyAt (.setEnabled true) 0 (withConfig 0x8000#32)))
      ∧ ConfigUnderWay 0x8000#32 (.setEnabled true) (withInputs [turn]
        (busyAt (.setEnabled true) 1 { withConfig 0x8000#32 with t := 0x8000#32 }))
      ∧ ∃ s', step (withInputs [turn] (busyAt (.setEnabled true) 1
        { withConfig 0x8000#32 with t := 0x8000#32 })) = .next s' :=
  ⟨by decide, ⟨⟨rfl, rfl, rfl, rfl, rfl, by decide⟩, rfl, by decide⟩,
    ⟨⟨rfl, rfl, rfl, rfl, rfl, by decide⟩, rfl, fun _ => rfl⟩, exists_next (by decide)⟩

theorem witness_StatusOperationUnderEverySchedule :
    enablesResult ⟨true, false, false⟩ (.setInterrupts ⟨false, true, false⟩ true)
        = some ⟨true, true, false⟩
      ∧ StatusUnderWay ⟨true, false, false⟩ (.setInterrupts ⟨false, true, false⟩ true)
        (withInputs [turn] (busyAt (.setInterrupts ⟨false, true, false⟩ true) 1
          { withStatus 0x4D#32 with t := 0x4D#32 }))
      ∧ ∃ s', step (withInputs [turn] (busyAt (.setInterrupts ⟨false, true, false⟩ true) 1
          { withStatus 0x4D#32 with t := 0x4D#32 })) = .next s' :=
  ⟨by decide, ⟨⟨rfl, rfl, rfl, rfl, rfl, by decide⟩, by decide, fun _ => by decide⟩,
    exists_next (by decide)⟩

/-- `Reset` under way before its first micro-step. -/
theorem witness_ResetUnderEverySchedule :
    State.reset.cfg.wf = true ∧ State.reset.mode = .idle
      ∧ ResetUnderWay 0#32 (withInputs [turn] (busyAt .reset 0 State.reset))
      ∧ ∃ s', step (withInputs [turn] (busyAt .reset 0 State.reset)) = .next s' :=
  ⟨by decide, rfl,
    ⟨⟨rfl, rfl, rfl, rfl, rfl, by decide⟩, fun k h => absurd h (by simp [withInputs, busyAt]),
      fun _ => rfl, fun _ => rfl, by decide, by decide, by decide, by decide⟩,
    exists_next (by decide)⟩

/-- A poll under way, a write pending, the clock stopped for two steps. -/
theorem witness_PollHangsWithoutClock :
    Executing .waitForUpdate (busyAt .waitForUpdate 0 (withPending .cnt 9#32))
      ∧ (busyAt .waitForUpdate 0 (withPending .cnt 9#32)).pending = some ⟨.cnt, 9#32⟩
      ∧ ClockStopped [turn, ⟨.sync, false⟩] ∧ NoHardwareReset [turn, ⟨.sync, false⟩] :=
  ⟨executing_busyAt rfl (by decide), rfl, by simp [ClockStopped, turn],
    by simp [NoHardwareReset, turn]⟩

/-- The same poll; after the commit the host reads the response. -/
theorem witness_PollReturnsAfterCommit :
    Executing .waitForUpdate (busyAt .waitForUpdate 0 (withPending .cnt 9#32))
      ∧ ClockStopped [turn] ∧ NoHardwareReset [turn]
      ∧ NoHardwareReset [⟨.readResponse, true⟩]
      ∧ (∀ i ∈ [(⟨.readResponse, true⟩ : Input)], i.move ≠ .controller)
      ∧ RtcQuiescent [⟨.readResponse, true⟩] :=
  ⟨executing_busyAt rfl (by decide), by simp [ClockStopped, turn], by simp [NoHardwareReset, turn],
    by simp [NoHardwareReset], by simp, by simp [RtcQuiescent]⟩

/-! A fair run: a poll with a write pending; `Sync` commits it, the controller responds, and from
then on the controller's turn passes. -/

theorem next_of_view {o : Result} {s : State} (h : view id o = some s) : o = .next s := by
  cases o with
  | next t => exact congrArg _ (Option.some.inj h)
  | fault r => exact nomatch h
  | refused r => exact nomatch h

/-- The schedule of the fair run. -/
def fairSchedule : Nat → Input
  | 0 => ⟨.sync, true⟩
  | _ + 1 => ⟨.controller, true⟩

/-- The last state of the fair run. -/
def fairEnd : State :=
  { busyAt .waitForUpdate 1 { State.reset with cnt := 9#32 } with
    mode := .idle, t := 0x40#32, resp := ok 0#32, respOutstanding := true }

/-- The states of the fair run. -/
def fairStates : Nat → State
  | 0 => busyAt .waitForUpdate 0 (withPending .cnt 9#32)
  | 1 => busyAt .waitForUpdate 0 { State.reset with cnt := 9#32 }
  | _ + 2 => fairEnd

theorem fairRun_isRun : IsRun fairSchedule fairStates
  | 0 => next_of_view (by decide)
  | 1 => next_of_view (by decide)
  | _ + 2 => next_of_view (show view id (step { fairEnd with inputs := [⟨.controller, true⟩] })
      = some fairEnd by decide)

/-- The hypotheses of `PendingWriteClears` and `FairRunsComplete`, met together. -/
theorem witness_fairRuns :
    FairRun fairSchedule fairStates ∧ ClockRuns fairSchedule ∧ (fairStates 0).pending ≠ none
      ∧ Executing .waitForUpdate (fairStates 0)
      ∧ ∀ n, (fairSchedule n).move ≠ .hardwareReset := by
  refine ⟨⟨fairRun_isRun, fun n h => ?_, fun n _ => ⟨n + 1, by omega, rfl⟩⟩,
    ⟨0, fun m _ => by cases m <;> rfl⟩, by decide, executing_busyAt rfl (by decide),
    fun n => by cases n <;> exact nofun⟩
  exact absurd rfl (h (n + 2) (by omega)).1

end Sys2Proof.Tests
end

/-!
PROOF. A configuration passes the model's test exactly when the seven clauses of 00_scope.md R7
hold, one lemma per clause, and no operation and no step gets past a configuration that fails it.
-/

namespace Sys2Proof

variable {c : Cfg}

/-- Five indices that differ pairwise and lie in 0x10 to 0x14 are exactly these five, in some order
(00_scope.md R7 b): both lists have five members. -/
theorem perm_rtcIndices_iff {l : List Nat} (hl : l.length = 5) :
    l.Perm [0x10, 0x11, 0x12, 0x13, 0x14]
      ↔ (∀ i ∈ l, 0x10 ≤ i ∧ i ≤ 0x14) ∧ l.Nodup := by
  have hmem (i : Nat) : i ∈ [0x10, 0x11, 0x12, 0x13, 0x14] ↔ 0x10 ≤ i ∧ i ≤ 0x14 := by
    simp only [List.mem_cons, List.not_mem_nil, or_false]
    omega
  constructor
  · intro hp
    exact ⟨fun i hi => (hmem i).1 (hp.subset hi), hp.nodup_iff.2 (by decide)⟩
  · rintro ⟨hrange, hnodup⟩
    have hsub : l.Subperm [0x10, 0x11, 0x12, 0x13, 0x14] :=
      hnodup.subperm fun i hi => (hmem i).2 (hrange i hi)
    exact hsub.perm_of_length_le (by simp [hl])

/-- 00_scope.md R7 a. -/
theorem Cfg.wfBase_iff : c.wfBase = true ↔
    c.base.toNat % 4 = 0 ∧ c.base.toNat + 4 * 0x14 + 3 ≤ 0xFFFFFFFF := by
  simp only [Cfg.wfBase, Bool.and_eq_true, decide_eq_true_eq]

/-- The map of the backup words is the identity, entry by entry. -/
theorem Cfg.idxBkp_eq_iff :
    (c.idxBkp = Vector.ofFn fun k => k.val) ↔ ∀ (k : Nat) (h : k < 14), c.idxBkp[k] = k := by
  simp [Vector.ext_iff]

/-- 00_scope.md R7 b: the range and the difference of the five RTC indices make them a
permutation. -/
theorem Cfg.wfIndices_iff : c.wfIndices = true ↔
    (∀ (k : Nat) (h : k < 14), c.idxBkp[k] = k) ∧ c.idxCtrl = 0x0E ∧ c.idxCfg = 0x0F
      ∧ [c.idxCnt, c.idxDiv, c.idxPrl, c.idxAlrm, c.idxCs].Perm
        [0x10, 0x11, 0x12, 0x13, 0x14] := by
  rw [perm_rtcIndices_iff rfl, ← Cfg.idxBkp_eq_iff]
  simp only [Cfg.wfIndices, Bool.and_eq_true, List.all_eq_true, decide_eq_true_eq, and_assoc]

/-- 00_scope.md R7 c. -/
theorem Cfg.wfPositions_iff : c.wfPositions = true ↔
    (∀ p ∈ [c.srcLsb, c.calLsb, c.enBit, c.rstBit, c.fOw, c.fAlr, c.fSec, c.ieOw, c.ieAlr,
        c.ieSec, c.wecBit], p ≤ 31)
      ∧ 2 ≤ c.srcW ∧ c.srcLsb + c.srcW ≤ 32 ∧ c.calLsb + 8 ≤ 32 := by
  simp only [Cfg.wfPositions, Bool.and_eq_true, List.all_eq_true, decide_eq_true_eq, and_assoc]

/-- 00_scope.md R7 d, pair by pair. -/
theorem Cfg.wfDisjoint_iff : c.wfDisjoint = true ↔
    c.srcMask &&& c.calMask = 0#32 ∧ c.srcMask &&& c.enMask = 0#32
      ∧ c.srcMask &&& c.rstMask = 0#32 ∧ c.calMask &&& c.enMask = 0#32
      ∧ c.calMask &&& c.rstMask = 0#32 ∧ c.enMask &&& c.rstMask = 0#32 := by
  simp [Cfg.wfDisjoint, and_assoc]

/-- 00_scope.md R7 e. -/
theorem Cfg.wfStatusBits_iff : c.wfStatusBits = true ↔
    [c.fOw, c.fAlr, c.fSec, c.ieOw, c.ieAlr, c.ieSec, c.wecBit].Nodup := by
  simp only [Cfg.wfStatusBits, decide_eq_true_eq]

/-- The sources in the order in which the model lists their codes. -/
def Source.all : List Source := [.lsi, .lse, .hsi, .hse]

@[simp] theorem Source.mem_all (p : Source) : p ∈ Source.all := by cases p <;> decide

/-- No two entries of the list of codes are equal exactly when `SRC_CODE` is injective, since every
source is listed once. -/
theorem Cfg.codes_nodup_iff : [c.codeLsi, c.codeLse, c.codeHsi, c.codeHse].Nodup ↔
    ∀ p q, c.srcCode p = c.srcCode q → p = q := by
  change (Source.all.map c.srcCode).Nodup ↔ _
  rw [List.nodup_map_iff_inj_on (by decide)]
  simp

/-- 00_scope.md R7 f. -/
theorem Cfg.wfCodes_iff : c.wfCodes = true ↔
    (∀ p q, c.srcCode p = c.srcCode q → p = q) ∧ ∀ p, (c.srcCode p).toNat < 2 ^ c.srcW := by
  have hall : (∀ k ∈ [c.codeLsi, c.codeLse, c.codeHsi, c.codeHse], k.toNat < 2 ^ c.srcW)
      ↔ ∀ p, (c.srcCode p).toNat < 2 ^ c.srcW := by
    change (∀ k ∈ Source.all.map c.srcCode, _) ↔ _
    simp
  rw [← Cfg.codes_nodup_iff, ← hall]
  simp only [Cfg.wfCodes, Bool.and_eq_true, List.all_eq_true, decide_eq_true_eq]

/-- 00_scope.md R7 g. -/
theorem Cfg.wfResetCfg_iff : c.wfResetCfg = true ↔
    (c.resetCfg &&& c.srcMask) >>> c.srcLsb = c.srcCode .lsi
      ∧ c.resetCfg &&& c.enMask = 0#32 := by
  simp only [Cfg.wfResetCfg, Cfg.srcCode, Bool.and_eq_true, decide_eq_true_eq]

end Sys2Proof

namespace Sys2Proof.Machine

open Sys2Proof

/-- The controller refuses an ill-formed configuration whatever its mode (00_scope.md R7). -/
theorem controlStep_refused {i : Instr} {m : State → Result} {s : State}
    (hw : s.cfg.wf = false) : controlStep i m s = .refused .illFormedCfg := by
  simp [controlStep, hw]

/-- Every operation refuses an ill-formed configuration (00_scope.md R7). -/
theorem exec_refused {s : State} (hw : s.cfg.wf = false) (i : Instr) :
    exec i s = .refused .illFormedCfg := by
  cases i <;> exact controlStep_refused hw

/-- A step of any agent refuses an ill-formed configuration (00_scope.md R7). -/
theorem step_refused {s : State} (hw : s.cfg.wf = false) : step s = .refused .illFormedCfg := by
  simp [step, systemStep, hw]

/-- Settles O20: the test is the conjunction of its seven clauses, and each clause of it says what
R7 says. -/
theorem illFormedMapRefused : Obligations.IllFormedMapRefused := by
  unfold Obligations.IllFormedMapRefused
  intro s
  refine ⟨?_, fun hw => ⟨step_refused hw, exec_refused hw⟩⟩
  rw [Cfg.wf_iff, Cfg.wfBase_iff, Cfg.wfIndices_iff, Cfg.wfPositions_iff, Cfg.wfDisjoint_iff,
    Cfg.wfStatusBits_iff, Cfg.wfCodes_iff, Cfg.wfResetCfg_iff]

end Sys2Proof.Machine

/-!
PROOF. The decoder and the encoder invert each other (30_encoding.md R100 to R107).
-/

namespace Sys2Proof

/-- An event set fills `arg[2:0]` alone (30_encoding.md R104). -/
theorem Events.toArg_shift (s : Events) : s.toArg >>> 3 = 0#32 := by
  rcases s with ⟨a, b, d⟩; cases a <;> cases b <;> cases d <;> rfl

/-- A flag selector fills `arg[1:0]` alone (30_encoding.md R105). -/
theorem Flag.toArg_shift (f : Flag) : f.toArg >>> 2 = 0#32 := by
  rcases f with _ | e
  · rfl
  · cases e <;> rfl

/-- The word of an instruction decodes to it (30_encoding.md R106). -/
@[simp] theorem decode_encode (i : Instr) : decode (encode i) = .command i := by
  rw [encode, decode_packWord]
  cases i <;>
    simp [decodeOp, opcodeOf, enOf, argOf, decodePlain, decodeArg, decodeEn, decodeLow,
      Events.toArg_shift, Flag.toArg_shift]

/-- The fields of a word that decodes to `i` are those of `i`, row by row of the opcode map
(30_encoding.md R106). -/
theorem fields_of_decodeOp {op : BitVec 4} {en : Bool} {arg : Word} {i : Instr}
    (h : decodeOp op en arg = .command i) : opcodeOf i = op ∧ enOf i = en ∧ argOf i = arg := by
  unfold decodeOp at h
  split at h
  case h_1 hop | h_7 hop | h_10 hop | h_12 hop =>
    obtain ⟨rfl, rfl, rfl⟩ := decodePlain_inv h
    exact ⟨BitVec.eq_of_toNat_eq hop.symm, rfl, rfl⟩
  case h_2 hop | h_4 hop | h_8 hop | h_9 hop | h_11 hop =>
    obtain ⟨rfl, rfl⟩ := decodeArg_inv h
    exact ⟨BitVec.eq_of_toNat_eq hop.symm, rfl, rfl⟩
  case h_3 hop | h_5 hop =>
    obtain ⟨rfl, rfl⟩ := decodeEn_inv h
    exact ⟨BitVec.eq_of_toNat_eq hop.symm, rfl, rfl⟩
  case h_6 hop =>
    obtain ⟨hs, rfl⟩ := decodeLow_inv h
    exact ⟨BitVec.eq_of_toNat_eq hop.symm, rfl, Events.toArg_ofArg hs⟩
  case h_13 hop =>
    cases en
    · obtain ⟨hs, rfl⟩ := decodeLow_inv h
      exact ⟨BitVec.eq_of_toNat_eq hop.symm, rfl, Flag.toArg_ofArg hs⟩
    · exact nomatch h
  case h_14 hop =>
    cases en
    · obtain ⟨hs, rfl⟩ := decodeLow_inv h
      exact ⟨BitVec.eq_of_toNat_eq hop.symm, rfl, Events.toArg_ofArg hs⟩
    · exact nomatch h
  case h_15 => exact nomatch h

/-- A word that decodes to `i` is the word of `i` (30_encoding.md R107). -/
theorem encode_of_decode {c : CommandWord} {i : Instr} (h : decode c = .command i) :
    encode i = c := by
  by_cases hr : rsvField c = 0#3
  · rw [decode, if_pos hr] at h
    obtain ⟨hop, hen, harg⟩ := fields_of_decodeOp h
    rw [encode, hop, hen, harg, packWord_fields c hr]
  · rw [decode, if_neg hr] at h
    exact nomatch h

end Sys2Proof

/-!
PROOF. A micro-step said once as a function: the bus access an operation makes at `upc`, then the
move of `upc` and the response (10_state.md R41, R42). Which register each operation may write is
read off the accesses.
-/

namespace Sys2Proof.Machine

open Sys2Proof

/-- One bus access of a micro-step: a read into `T`, or a write (10_state.md R41). -/
inductive Access where
  | read (r : Reg)
  | write (r : Reg) (v : Word)

/-- The state after a bus access, `upc` not yet moved. -/
def Access.perform : Access → State → State
  | .read r, s => setT (readReg r s).1 (readReg r s).2
  | .write r v, s => writeReg r v s

/-- The accesses of a read-modify-write of `r`, by `upc` (41_config_field_ops.md R145). -/
def modifyAccess (r : Reg) (v : Word) : Nat → Option Access
  | 0 => some (.read r)
  | 1 => some (.write r v)
  | _ => none

/-- The access of an operation of one micro-step, by `upc` (42_rtc_value_ops.md R165). -/
def onlyAccess (a : Access) : Nat → Option Access
  | 0 => some a
  | _ => none

/-- The accesses of `Reset`, by `upc` (40_bulk_reset.md R130). -/
def resetAccess (c : Cfg) (t : Word) (n : Nat) : Option Access :=
  if n < 14 then (regAt c n).map (Access.write · 0#32)
  else if n < 19 then (regAt c (0x10 + (n - 14))).map (Access.write · 0#32)
  else match n with
    | 19 => some (.read (.plain 14))
    | 20 => some (.write (.plain 14) (t ||| c.domainOn))
    | 21 => some (.read (.plain 14))
    | 22 => some (.write (.plain 14) (t &&& c.domainOffKeep))
    | 23 => some (.write (.plain 15) c.resetCfg)
    | _ => none

/-- The bus access of the micro-step of `i` numbered `upc`, if there is one (10_state.md R41). -/
def access (i : Instr) (s : State) : Option Access :=
  match i with
  | .reset => resetAccess s.cfg s.t s.upc.toNat
  | .setClockSource _ =>
    modifyAccess (.plain 15) (insertField s.cfg.srcMask s.cfg.srcLsb s.t s.a) s.upc.toNat
  | .setEnabled _ => modifyAccess (.plain 15) (setOrClear s.b s.cfg.enMask s.t) s.upc.toNat
  | .setCalibration _ =>
    modifyAccess (.plain 15) (insertField s.cfg.calMask s.cfg.calLsb s.t s.a) s.upc.toNat
  | .setReset _ => modifyAccess (.plain 15) (setOrClear s.b s.cfg.rstMask s.t) s.upc.toNat
  | .setInterrupts _ _ =>
    modifyAccess .cs (interruptsWord s.cfg (Events.ofArg s.a) s.b s.t) s.upc.toNat
  | .clearFlags _ => modifyAccess .cs (clearWord s.cfg (Events.ofArg s.a) s.t) s.upc.toNat
  | .getCounter => onlyAccess (.read (.synced .cnt)) s.upc.toNat
  | .setCounter _ => onlyAccess (.write (.synced .cnt) s.a) s.upc.toNat
  | .setAlarm _ => onlyAccess (.write (.synced .alrm) s.a) s.upc.toNat
  | .getDivider => onlyAccess (.read .div) s.upc.toNat
  | .setPrescaler _ => onlyAccess (.write (.synced .prl) s.a) s.upc.toNat
  | .waitForUpdate => onlyAccess (.read .cs) s.upc.toNat
  | .getFlag _ => onlyAccess (.read .cs) s.upc.toNat

/-- The data of the response of `i`, from the latches after its last access (10_state.md R42). -/
def answerData (i : Instr) (u : State) : Word :=
  match i with
  | .getCounter => u.t
  | .getDivider => u.t
  | .getFlag _ => if flagIn u.cfg u.t (Flag.ofArg u.a) then 1#32 else 0#32
  | _ => 0#32

/-- How a micro-step of `i` ends after its access: the poll decides by the word read, any other
operation responds at its last micro-step and goes on before it (10_state.md R41, R42). -/
def finish (i : Instr) (u : State) : State :=
  if i = .waitForUpdate then pollDecide u
  else if u.upc.toNat + 1 = microCount i then respond (answerData i u) (advance u)
  else advance u

/-- The answer of a micro-step of `i` with the given access; with none there is no micro-step. -/
def answer (i : Instr) (s : State) : Option Access → Result
  | some a => .next (finish i (a.perform s))
  | none => .fault .noMicroStep

/-! ### What an access and an end leave unchanged -/

@[simp] theorem perform_cfg (a : Access) (s : State) : (a.perform s).cfg = s.cfg := by
  cases a <;> simp [Access.perform]
@[simp] theorem perform_mode (a : Access) (s : State) : (a.perform s).mode = s.mode := by
  cases a <;> simp [Access.perform]
@[simp] theorem perform_cmd (a : Access) (s : State) : (a.perform s).cmd = s.cmd := by
  cases a <;> simp [Access.perform]
@[simp] theorem perform_a (a : Access) (s : State) : (a.perform s).a = s.a := by
  cases a <;> simp [Access.perform]
@[simp] theorem perform_b (a : Access) (s : State) : (a.perform s).b = s.b := by
  cases a <;> simp [Access.perform]
@[simp] theorem perform_upc (a : Access) (s : State) : (a.perform s).upc = s.upc := by
  cases a <;> simp [Access.perform]
@[simp] theorem perform_resp (a : Access) (s : State) : (a.perform s).resp = s.resp := by
  cases a <;> simp [Access.perform]
@[simp] theorem perform_respOutstanding (a : Access) (s : State) :
    (a.perform s).respOutstanding = s.respOutstanding := by
  cases a <;> simp [Access.perform]

theorem finish_wait (u : State) : finish .waitForUpdate u = pollDecide u := if_pos rfl

/-- The last micro-step of an operation but the poll responds. -/
theorem finish_last {i : Instr} {u : State} (hi : i ≠ .waitForUpdate)
    (hu : u.upc.toNat + 1 = microCount i) :
    finish i u = respond (answerData i u) (advance u) := by
  rw [finish, if_neg hi, if_pos hu]

/-- A micro-step before the last goes on. -/
theorem finish_goesOn {i : Instr} {u : State} (hi : i ≠ .waitForUpdate)
    (hu : u.upc.toNat + 1 ≠ microCount i) : finish i u = advance u := by
  rw [finish, if_neg hi, if_neg hu]

/-- Every end is one of the three of `Ends`. -/
theorem finish_ends (i : Instr) (u : State) : Ends u (finish i u) := by
  unfold finish
  split
  · unfold pollDecide
    split
    · exact .responds _
    · exact .stays
  · split
    · exact .responds _
    · exact .goesOn

/-! ### The micro-step of each operation -/

theorem readStep_finish {i : Instr} {k : Nat} {r : Reg} {s : State}
    (hr : regAt s.cfg k = some r) (hi : i ≠ .waitForUpdate)
    (hu : s.upc.toNat + 1 ≠ microCount i) :
    readStep k s = .next (finish i ((Access.read r).perform s)) := by
  rw [readStep_of hr, finish_goesOn hi (by rwa [perform_upc])]
  rfl

theorem writeStep_finish {i : Instr} {k : Nat} {r : Reg} {s : State}
    (hr : regAt s.cfg k = some r) (hi : i ≠ .waitForUpdate)
    (hu : s.upc.toNat + 1 ≠ microCount i) (v : Word) :
    writeStep k v s = .next (finish i ((Access.write r v).perform s)) := by
  rw [writeStep_of hr, finish_goesOn hi (by rwa [perform_upc])]
  rfl

theorem writeLast_finish {i : Instr} {k : Nat} {r : Reg} {s : State}
    (hr : regAt s.cfg k = some r) (hi : i ≠ .waitForUpdate)
    (hu : s.upc.toNat + 1 = microCount i) (hd : ∀ u, answerData i u = 0#32) (v : Word) :
    writeLast k v s = .next (finish i ((Access.write r v).perform s)) := by
  rw [writeLast_of hr, finish_last hi (by rwa [perform_upc]), hd]
  rfl

theorem readLast_finish {i : Instr} {k : Nat} {r : Reg} {f : Word → Word} {s : State}
    (hr : regAt s.cfg k = some r) (hi : i ≠ .waitForUpdate)
    (hu : s.upc.toNat + 1 = microCount i)
    (hd : answerData i ((Access.read r).perform s) = f (readReg r s).1) :
    readLast k f s = .next (finish i ((Access.read r).perform s)) := by
  rw [readLast_of hr, finish_last hi (by rwa [perform_upc]), hd]
  rfl

/-- A read-modify-write makes its two accesses and responds after the second. -/
theorem readModifyWrite_answer {i : Instr} {k : Nat} {r : Reg} {f : Word → Word} {s : State}
    (hr : regAt s.cfg k = some r) (hc : microCount i = 2) (hd : ∀ u, answerData i u = 0#32) :
    readModifyWrite k f s = answer i s (modifyAccess r (f s.t) s.upc.toNat) := by
  have hi : i ≠ .waitForUpdate := by rintro rfl; exact absurd hc (by decide)
  unfold readModifyWrite
  split
  case h_1 hu => rw [hu]; exact readStep_finish hr hi (by omega)
  case h_2 hu => rw [hu]; exact writeLast_finish hr hi (by omega) hd _
  case h_3 h0 h1 =>
    rw [modifyAccess]
    · rfl
    · exact h0
    · exact h1

/-- An operation of one micro-step answers as that micro-step does. -/
theorem singleStep_answer {i : Instr} {m : State → Result} {a : Access} {s : State}
    (h : s.upc.toNat = 0 → m s = .next (finish i (a.perform s))) :
    singleStep m s = answer i s (onlyAccess a s.upc.toNat) := by
  unfold singleStep
  split
  case h_1 hu => rw [hu]; exact h hu
  case h_2 hu =>
    rw [onlyAccess]
    · rfl
    · exact hu

/-- The poll reads `RTC_CS` and decides. -/
theorem poll_finish {s : State} (hw : s.cfg.wf = true) :
    andThen (loadT s.cfg.idxCs s) pollDecide
      = .next (finish .waitForUpdate ((Access.read .cs).perform s)) := by
  rw [loadT_of (regAt_cs hw), finish_wait]
  rfl

/-- The 24 micro-steps of `Reset` make its accesses and respond after the last. -/
theorem resetMicro_answer {s : State} (hw : s.cfg.wf = true) :
    resetMicro s = answer .reset s (resetAccess s.cfg s.t s.upc.toNat) := by
  have hzero (k : Nat) (hk : k ≤ 0x14) (hu : s.upc.toNat + 1 ≠ 24) :
      writeStep k 0#32 s = answer .reset s ((regAt s.cfg k).map (Access.write · 0#32)) := by
    obtain ⟨r, hr⟩ := Option.isSome_iff_exists.1 ((regAt_isSome_iff hw k).2 hk)
    rw [hr]
    exact writeStep_finish (i := .reset) hr (by nofun) hu _
  by_cases h14 : s.upc.toNat < 14
  · simp only [resetMicro, resetAccess, if_pos h14]
    exact hzero _ (by omega) (by omega)
  by_cases h19 : s.upc.toNat < 19
  · simp only [resetMicro, resetAccess, if_neg h14, if_pos h19]
    exact hzero _ (by omega) (by omega)
  simp only [resetMicro, resetAccess, if_neg h14, if_neg h19]
  obtain ⟨k, hu⟩ := Nat.exists_eq_add_of_le' (show 19 ≤ s.upc.toNat by omega)
  rw [hu]
  match k with
  | 0 => exact readStep_finish (regAt_ctrl hw) (by nofun) (by rw [hu]; decide)
  | 1 => exact writeStep_finish (regAt_ctrl hw) (by nofun) (by rw [hu]; decide) _
  | 2 => exact readStep_finish (regAt_ctrl hw) (by nofun) (by rw [hu]; decide)
  | 3 => exact writeStep_finish (regAt_ctrl hw) (by nofun) (by rw [hu]; decide) _
  | 4 => exact writeLast_finish (regAt_cfg hw) (by nofun) (by rw [hu]; rfl) (fun _ => rfl) _
  | k + 5 => rfl

/-- A BUSY controller's step for `i` makes the access of its micro-step and ends it
(10_state.md R41). -/
theorem exec_busy {i : Instr} {s : State} (hw : s.cfg.wf = true) (hm : s.mode = .busy) :
    exec i s = answer i s (access i s) := by
  cases i <;> refine (controlStep_busy hw hm).trans ?_
  case reset => exact resetMicro_answer hw
  case setClockSource | setEnabled | setCalibration | setReset =>
    exact readModifyWrite_answer (regAt_cfg hw) rfl fun _ => rfl
  case setInterrupts | clearFlags =>
    exact readModifyWrite_answer (regAt_cs hw) rfl fun _ => rfl
  case getCounter =>
    exact singleStep_answer fun hu =>
      readLast_finish (regAt_synced hw .cnt) (by nofun) (by rw [hu]; rfl) rfl
  case getDivider =>
    exact singleStep_answer fun hu =>
      readLast_finish (regAt_div hw) nofun (by rw [hu]; rfl) rfl
  case getFlag =>
    exact singleStep_answer fun hu =>
      readLast_finish (regAt_cs hw) nofun (by rw [hu]; rfl) rfl
  case setCounter =>
    exact singleStep_answer fun hu =>
      writeLast_finish (regAt_synced hw .cnt) (by nofun) (by rw [hu]; rfl) (fun _ => rfl) _
  case setAlarm =>
    exact singleStep_answer fun hu =>
      writeLast_finish (regAt_synced hw .alrm) (by nofun) (by rw [hu]; rfl) (fun _ => rfl) _
  case setPrescaler =>
    exact singleStep_answer fun hu =>
      writeLast_finish (regAt_synced hw .prl) (by nofun) (by rw [hu]; rfl) (fun _ => rfl) _
  case waitForUpdate => exact singleStep_answer fun _ => poll_finish hw

/-! ### Which accesses there are -/

theorem modifyAccess_isSome {r : Reg} {v : Word} {n : Nat} (hn : n < 2) :
    (modifyAccess r v n).isSome = true := by
  match n with
  | 0 | 1 => rfl

theorem onlyAccess_isSome {a : Access} {n : Nat} (hn : n < 1) :
    (onlyAccess a n).isSome = true := by
  match n with
  | 0 => rfl

theorem resetAccess_isSome {c : Cfg} (hw : c.wf = true) (t : Word) {n : Nat} (hn : n < 24) :
    (resetAccess c t n).isSome = true := by
  unfold resetAccess
  split
  · rw [Option.isSome_map, regAt_isSome_iff hw]; omega
  · split
    · rw [Option.isSome_map, regAt_isSome_iff hw]; omega
    · obtain ⟨k, rfl⟩ := Nat.exists_eq_add_of_le' (show 19 ≤ n by omega)
      match k, hn with
      | 0, _ | 1, _ | 2, _ | 3, _ | 4, _ => rfl
      | k + 5, hn => omega

/-- An operation has an access at each of its micro-steps (10_state.md R41). -/
theorem exists_access {i : Instr} {s : State} (hw : s.cfg.wf = true)
    (hu : s.upc.toNat < microCount i) : ∃ a, access i s = some a := by
  rw [← Option.isSome_iff_exists]
  cases i
  case reset => exact resetAccess_isSome hw _ hu
  case setClockSource | setEnabled | setCalibration | setReset | setInterrupts | clearFlags =>
    exact modifyAccess_isSome hu
  all_goals exact onlyAccess_isSome hu

/-- The operations that write a synchronized register (20_memory.md R66). -/
def IsSyncedWriter (i : Instr) : Prop :=
  i = .reset ∨ (∃ v, i = .setCounter v) ∨ (∃ v, i = .setAlarm v) ∨ ∃ v, i = .setPrescaler v

/-- What is true of an operation that writes `v` to a register: `REG_0F` belongs to the configuration
operations, a synchronized register to its setters, both and the other plain words to `Reset`; a word
that clears a flag is that of `ClearFlags` (20_memory.md R71, 43_sync_status_ops.md R184 d). -/
def MayWrite (c : Cfg) (i : Instr) (v : Word) : Reg → Prop
  | .plain k => i = .reset ∨ (k = 15 ∧ IsConfigOp i)
  | .synced _ => IsSyncedWriter i
  | .div => i = .reset
  | .cs => clearedBy c v = Events.none ∨ ∃ set, i = .clearFlags set

theorem modifyAccess_write {r q : Reg} {v u : Word} {n : Nat}
    (h : modifyAccess r v n = some (.write q u)) : q = r ∧ u = v := by
  unfold modifyAccess at h
  split at h <;> simp_all

theorem onlyAccess_write {a : Access} {q : Reg} {u : Word} {n : Nat}
    (h : onlyAccess a n = some (.write q u)) : a = .write q u := by
  unfold onlyAccess at h
  split at h <;> simp_all

/-- `Reset` may write every register, and `RTC_CS` with 0, which clears no flag. -/
theorem mayWrite_reset {c : Cfg} {t v : Word} {n : Nat} {r : Reg}
    (h : resetAccess c t n = some (.write r v)) : MayWrite c .reset v r := by
  cases r with
  | plain k => exact .inl rfl
  | synced x => exact .inl rfl
  | div => rfl
  | cs =>
    have hzero {q : Option Reg} (hq : q.map (Access.write · 0#32) = some (.write .cs v)) :
        v = 0#32 := by
      obtain ⟨_, -, ha⟩ := Option.map_eq_some_iff.1 hq
      exact (Access.write.inj ha).2.symm
    have hv : v = 0#32 := by
      unfold resetAccess at h
      split at h
      · exact hzero h
      · split at h
        · exact hzero h
        · split at h <;> simp at h
    exact .inl (by rw [hv]; simp [clearedBy, Events.none])

/-- Which registers the access of an operation writes. -/
theorem mayWrite_of_access {i : Instr} {s : State} {r : Reg} {v : Word} (hw : s.cfg.wf = true)
    (h : access i s = some (.write r v)) : MayWrite s.cfg i v r := by
  cases i
  case reset => exact mayWrite_reset h
  case setClockSource arg =>
    obtain ⟨rfl, -⟩ := modifyAccess_write h
    exact .inr ⟨rfl, .inl ⟨arg, rfl⟩⟩
  case setEnabled en =>
    obtain ⟨rfl, -⟩ := modifyAccess_write h
    exact .inr ⟨rfl, .inr (.inl ⟨en, rfl⟩)⟩
  case setCalibration arg =>
    obtain ⟨rfl, -⟩ := modifyAccess_write h
    exact .inr ⟨rfl, .inr (.inr (.inl ⟨arg, rfl⟩))⟩
  case setReset en =>
    obtain ⟨rfl, -⟩ := modifyAccess_write h
    exact .inr ⟨rfl, .inr (.inr (.inr ⟨en, rfl⟩))⟩
  case setInterrupts set en =>
    obtain ⟨rfl, rfl⟩ := modifyAccess_write h
    exact .inl (clearedBy_interruptsWord hw _ _ _)
  case clearFlags set =>
    obtain ⟨rfl, -⟩ := modifyAccess_write h
    exact .inr ⟨set, rfl⟩
  case setCounter arg =>
    obtain ⟨rfl, -⟩ := Access.write.inj (onlyAccess_write h)
    exact .inr (.inl ⟨arg, rfl⟩)
  case setAlarm arg =>
    obtain ⟨rfl, -⟩ := Access.write.inj (onlyAccess_write h)
    exact .inr (.inr (.inl ⟨arg, rfl⟩))
  case setPrescaler arg =>
    obtain ⟨rfl, -⟩ := Access.write.inj (onlyAccess_write h)
    exact .inr (.inr (.inr ⟨arg, rfl⟩))
  all_goals exact nomatch onlyAccess_write h

end Sys2Proof.Machine

/-!
PROOF. The micro-steps of an operation under way: every one is answered, moves `upc` by one, and the
last one responds (10_state.md R32, R41, R42).
-/

namespace Sys2Proof.Machine

open Sys2Proof

variable {i : Instr} {s : State}

theorem Executing.busy (he : Executing i s) : s.mode = .busy := he.1

/-- The operation under way is the one in `CMD`. -/
theorem Executing.decode_cmd (he : Executing i s) : decode s.cmd = .command i := by
  rw [he.2.1, decode_encode]

theorem Executing.upc_lt (he : Executing i s) : s.upc.toNat < microCount i := he.2.2.2.2.2

/-- The controller under way makes the access of its micro-step and ends it. -/
theorem exec_executing (hw : s.cfg.wf = true) (he : Executing i s) :
    ∃ a, exec i s = .next (finish i (Access.perform a s)) := by
  obtain ⟨a, ha⟩ := exists_access hw he.upc_lt
  exact ⟨a, by rw [exec_busy hw he.busy, ha, answer]⟩

/-- The poll answers by the word it reads from `RTC_CS`. -/
theorem exec_waitForUpdate (hw : s.cfg.wf = true) (he : Executing .waitForUpdate s) :
    exec .waitForUpdate s = .next (pollDecide (setT (readCs s) s)) := by
  have h0 : s.upc.toNat = 0 := Nat.lt_one_iff.1 he.upc_lt
  rw [exec_busy hw he.busy, access, h0, onlyAccess, answer, finish_wait]
  rfl

/-- The poll completes when no write is pending (43_sync_status_ops.md R181). -/
theorem poll_completes (hw : s.cfg.wf = true) (hp : s.pending = none) :
    pollDecide (setT (readCs s) s) = respond 0#32 (advance (setT (readCs s) s)) := by
  have hasserted : s.cfg.asserted (readCs s) = true := by rw [asserted_readCs hw, hp]; rfl
  exact if_pos hasserted

/-- The poll stays while a write is pending (43_sync_status_ops.md R181). -/
theorem poll_stays (hw : s.cfg.wf = true) (hp : s.pending ≠ none) :
    pollDecide (setT (readCs s) s) = { setT (readCs s) s with upc := 0#5 } := by
  have hasserted : ¬ s.cfg.asserted (readCs s) = true := by
    rw [asserted_readCs hw, Option.isNone_iff_eq_none]; exact hp
  exact if_neg hasserted

/-- No operation has more than 24 micro-steps (40_bulk_reset.md R130). -/
theorem microCount_le (i : Instr) : microCount i ≤ 24 := by
  cases i <;> simp [microCount]

/-- The micro-step counter of an operation under way does not wrap (10_state.md R32). -/
theorem advance_upc_toNat {u : State} (hu : u.upc.toNat < microCount i) :
    (advance u).upc.toNat = u.upc.toNat + 1 := by
  have := microCount_le i
  simp only [advance_upc, BitVec.toNat_add, BitVec.toNat_ofNat]
  omega

/-- Settles O40: the end of a micro-step moves `upc` on, but the poll's that stays. -/
theorem microStepCounter : Obligations.MicroStepCounter := by
  unfold Obligations.MicroStepCounter
  intro i s s' hw he hx
  have hu := he.upc_lt
  by_cases hi : i = .waitForUpdate
  · subst hi
    rw [exec_waitForUpdate hw he] at hx
    injection hx with hx
    by_cases hp : s.pending = none
    · rw [if_neg (by simp [hp]), ← hx, poll_completes hw hp]
      exact advance_upc_toNat hu
    · rw [if_pos ⟨rfl, hp⟩, ← hx, poll_stays hw hp]
  · obtain ⟨a, ha⟩ := exec_executing hw he
    rw [hx] at ha
    injection ha with ha
    rw [if_neg (fun h => hi h.1), ha]
    have hadv : (advance (a.perform s)).upc.toNat = s.upc.toNat + 1 := by
      rw [advance_upc_toNat (i := i) (by rwa [perform_upc]), perform_upc]
    by_cases hl : s.upc.toNat + 1 = microCount i
    · rwa [finish_last hi (by rwa [perform_upc])]
    · rwa [finish_goesOn hi (by rwa [perform_upc])]

/-- An operation under way whose `upc` has moved on to one of its micro-steps is under way. -/
theorem executing_advance (he : Executing i s) (hl : s.upc.toNat + 1 ≠ microCount i)
    (a : Access) : Executing i (advance (a.perform s)) := by
  obtain ⟨hm, hc, ha, hb, hp, hu⟩ := he
  refine ⟨?_, ?_, ?_, ?_, ?_, ?_⟩
  case refine_6 =>
    rw [advance_upc_toNat (i := i) (by rwa [perform_upc]), perform_upc]
    omega
  all_goals simpa

/-- Only the three getters respond with data (30_encoding.md R110). -/
theorem answerData_zero (hc : i ≠ .getCounter) (hd : i ≠ .getDivider)
    (hf : ∀ f, i ≠ .getFlag f) (u : State) : answerData i u = 0#32 := by
  cases i
  case getCounter => exact absurd rfl hc
  case getDivider => exact absurd rfl hd
  case getFlag f => exact absurd rfl (hf f)
  all_goals rfl

/-- Settles O41: each micro-step has an access and ends, with the response at the last. -/
theorem completesAtLastMicroStep : Obligations.CompletesAtLastMicroStep := by
  unfold Obligations.CompletesAtLastMicroStep
  intro i s hw he
  by_cases hi : i = .waitForUpdate
  · subst hi
    refine ⟨_, exec_waitForUpdate hw he, ?_⟩
    obtain ⟨hm, hc, ha, hb, hpre, hu⟩ := he
    have h0 : s.upc.toNat = 0 := Nat.lt_one_iff.1 hu
    by_cases hp : s.pending = none
    · rw [if_pos ⟨by rw [h0]; rfl, fun _ => hp⟩, poll_completes hw hp]
      exact ⟨rfl, rfl, rfl, fun _ _ _ => rfl⟩
    · rw [if_neg (fun h => hp (h.2 rfl)), poll_stays hw hp]
      exact ⟨⟨hm, hc, ha, hb, hpre, Nat.zero_lt_one⟩, rfl, rfl⟩
  · obtain ⟨a, ha⟩ := exec_executing hw he
    refine ⟨_, ha, ?_⟩
    by_cases hl : s.upc.toNat + 1 = microCount i
    · rw [if_pos ⟨hl, fun h => absurd h hi⟩, finish_last hi (by rwa [perform_upc])]
      exact ⟨rfl, rfl, rfl, fun hc hd hf => answerData_zero hc hd hf _⟩
    · rw [if_neg (fun h => hl h.1), finish_goesOn hi (by rwa [perform_upc])]
      exact ⟨executing_advance he hl a, by simp, by simp⟩

end Sys2Proof.Machine

/-!
PROOF. The controller seen from the system: acceptance, the halt, the invariant and progress
(10_state.md R37, R40, R43), and the steps of the other agents, which leave the controller alone.
-/

namespace Sys2Proof.Machine

open Sys2Proof

variable {i : Instr} {s s' : State}

/-! ### Taking the input -/

@[simp] theorem takeInput_cfg (s : State) : (takeInput s).2.cfg = s.cfg := by rw [takeInput_eq]
@[simp] theorem takeInput_mode (s : State) : (takeInput s).2.mode = s.mode := by rw [takeInput_eq]
@[simp] theorem takeInput_cmd (s : State) : (takeInput s).2.cmd = s.cmd := by rw [takeInput_eq]
@[simp] theorem takeInput_a (s : State) : (takeInput s).2.a = s.a := by rw [takeInput_eq]
@[simp] theorem takeInput_b (s : State) : (takeInput s).2.b = s.b := by rw [takeInput_eq]
@[simp] theorem takeInput_t (s : State) : (takeInput s).2.t = s.t := by rw [takeInput_eq]
@[simp] theorem takeInput_upc (s : State) : (takeInput s).2.upc = s.upc := by rw [takeInput_eq]
@[simp] theorem takeInput_resp (s : State) : (takeInput s).2.resp = s.resp := by rw [takeInput_eq]
@[simp] theorem takeInput_w (s : State) : (takeInput s).2.w = s.w := by rw [takeInput_eq]
@[simp] theorem takeInput_alrm (s : State) : (takeInput s).2.alrm = s.alrm := by rw [takeInput_eq]
@[simp] theorem takeInput_prl (s : State) : (takeInput s).2.prl = s.prl := by rw [takeInput_eq]
@[simp] theorem takeInput_flg (s : State) : (takeInput s).2.flg = s.flg := by rw [takeInput_eq]
@[simp] theorem takeInput_ie (s : State) : (takeInput s).2.ie = s.ie := by rw [takeInput_eq]
@[simp] theorem takeInput_pending (s : State) : (takeInput s).2.pending = s.pending := by
  rw [takeInput_eq]
@[simp] theorem takeInput_viol (s : State) : (takeInput s).2.viol = s.viol := by rw [takeInput_eq]
@[simp] theorem takeInput_program (s : State) : (takeInput s).2.program = s.program := by
  rw [takeInput_eq]

/-! ### Acceptance and dispatch (10_state.md R40, R41) -/

/-- Settles O24: the controller's step takes its input and runs what the decoder reads. -/
theorem stepRunsDecoded : Obligations.StepRunsDecoded := by
  unfold Obligations.StepRunsDecoded
  intro s clk rest i hw hin
  refine ⟨fun c ps hm hp hd => ?_, fun hm hd => ?_⟩
  · rw [step_cons hw hin]
    simp only [agentStep, controllerStep, hm, hp, hd]
  · rw [step_cons hw hin]
    simp only [agentStep, controllerStep, hm, hd]

/-- A presented word in range is latched. -/
theorem accept_of_precond (h : precond s.cfg i = true) : accept i s = latch (encode i) s :=
  if_pos h

/-- A presented word out of range halts the controller. -/
theorem accept_of_not_precond (h : precond s.cfg i = false) :
    accept i s = takeFault statusPrecondFail s := by
  simp [accept, h]

/-- Settles O21: an illegal word is the fault, a legal one is accepted by its range check. -/
theorem acceptingACommand : Obligations.AcceptingACommand := by
  unfold Obligations.AcceptingACommand
  intro s clk rest c ps hw hm hin hp
  have hlegal {i : Instr} (hd : decode c = .command i) :
      step s = .next (accept i { s with inputs := rest, program := ps }) :=
    ((stepRunsDecoded s clk rest i hw hin).1 c ps hm hp hd).trans (exec_idle hw hm)
  refine ⟨fun why hd => ⟨true, ?_⟩, fun i hd hr => ⟨true, ?_⟩, fun i hd hr => ⟨false, ?_⟩⟩
  · rw [step_cons hw hin]
    simp only [agentStep, controllerStep, hm, hp, hd]
    rfl
  · exact (hlegal hd).trans (congrArg _ (accept_of_not_precond hr))
  · obtain rfl := encode_of_decode hd
    exact (hlegal hd).trans (congrArg _ (accept_of_precond hr))

/-! ### The other agents leave the controller alone -/

/-- The controller's latches, the configuration and the host's words are the same. -/
structure SameController (s s' : State) : Prop where
  cfg : s'.cfg = s.cfg
  mode : s'.mode = s.mode
  cmd : s'.cmd = s.cmd
  a : s'.a = s.a
  b : s'.b = s.b
  t : s'.t = s.t
  upc : s'.upc = s.upc
  resp : s'.resp = s.resp
  program : s'.program = s.program

theorem SameController.refl (s : State) : SameController s s := by constructor <;> rfl

theorem SameController.trans {u : State} (h : SameController s u) (h' : SameController u s') :
    SameController s s' := by
  obtain ⟨h1, h2, h3, h4, h5, h6, h7, h8, h9⟩ := h
  obtain ⟨k1, k2, k3, k4, k5, k6, k7, k8, k9⟩ := h'
  exact ⟨k1.trans h1, k2.trans h2, k3.trans h3, k4.trans h4, k5.trans h5, k6.trans h6,
    k7.trans h7, k8.trans h8, k9.trans h9⟩

/-- A step of `Sync` leaves the state, or commits the pending write (20_memory.md R67). -/
theorem syncStep_cases (clk : Bool) (s : State) : syncStep clk s = s
    ∨ ∃ p, clk = true ∧ s.pending = some p
      ∧ syncStep clk s = { setCommitted p.reg p.val s with pending := none } := by
  unfold syncStep
  split
  case h_1 => exact .inl rfl
  case h_2 p hp =>
    split
    · exact .inr ⟨p, ‹_›, hp, rfl⟩
    · exact .inl rfl

theorem sameController_syncStep (clk : Bool) (s : State) : SameController s (syncStep clk s) := by
  rcases syncStep_cases clk s with e | ⟨p, -, -, e⟩ <;> rw [e] <;> constructor <;> simp

/-- A step of an agent but the controller and the hardware reset leaves the controller alone. -/
theorem SystemMove.sameController {inp : Input} (h : SystemMove inp s s')
    (hc : inp.move ≠ .controller) (hr : inp.move ≠ .hardwareReset) : SameController s s' := by
  cases h with
  | controller hi => exact absurd hi hc
  | sync _ e => exact e ▸ sameController_syncStep _ _
  | rtcCore m _ e => subst e; constructor <;> rfl
  | readResponse _ e => exact e ▸ .refl s
  | hardwareReset hi => exact absurd hi hr

/-- What an operation under way rests on is the controller's own. -/
theorem Executing.of_same (he : Executing i s) (h : SameController s s') : Executing i s' := by
  obtain ⟨hm, hc, ha, hb, hp, hu⟩ := he
  exact ⟨h.mode.trans hm, h.cmd.trans hc, h.a.trans ha, h.b.trans hb, by rwa [h.cfg],
    by rwa [h.upc]⟩

theorem sameController_takeInput (s : State) : SameController s (takeInput s).2 := by
  constructor <;> simp

/-! ### The halt (10_state.md R43) -/

/-- A halted controller's turn passes (10_state.md R43). -/
theorem ControllerMove.of_halted (h : ControllerMove s s') (hm : s.mode = .halted) : s' = s := by
  cases h with
  | passes _ e => exact e
  | accepts hi => exact absurd (hm.symm.trans hi) (by decide)
  | illegal hi => exact absurd (hm.symm.trans hi) (by decide)
  | micro hb => exact absurd (hm.symm.trans hb) (by decide)

/-- With the controller halted no move but the hardware reset changes the controller, a plain word,
an enable or the mark. -/
theorem SystemMove.of_halted {inp : Input} (h : SystemMove inp s s') (hm : s.mode = .halted)
    (hr : inp.move ≠ .hardwareReset) :
    SameController s s' ∧ s'.w = s.w ∧ s'.ie = s.ie ∧ s'.viol = s.viol
      ∧ (inp.move = .controller ∨ inp.move = .readResponse → s' = s) := by
  cases h with
  | controller _ h =>
    rw [h.of_halted hm]
    exact ⟨.refl s, rfl, rfl, rfl, fun _ => rfl⟩
  | sync hi e =>
    subst e
    refine ⟨sameController_syncStep _ _, ?_, ?_, ?_, by simp [hi]⟩ <;>
      rcases syncStep_cases inp.clk s with e | ⟨p, -, -, e⟩ <;> simp [e]
  | rtcCore m hi e =>
    subst e
    exact ⟨by constructor <;> rfl, rfl, rfl, rfl, by simp [hi]⟩
  | readResponse _ e =>
    subst e
    exact ⟨.refl _, rfl, rfl, rfl, fun _ => rfl⟩
  | hardwareReset hi => exact absurd hi hr

/-- Settles O23: what a step may do to a halted controller, the input taken. -/
theorem haltedUntilHardwareReset : Obligations.HaltedUntilHardwareReset := by
  unfold Obligations.HaltedUntilHardwareReset
  intro s s' hm h hr
  obtain ⟨hmove, hw, hie, hviol, heq⟩ :=
    (step_cases h).2.of_halted ((takeInput_mode s).trans hm) hr
  have hsame : SameController s s' := (sameController_takeInput s).trans hmove
  refine ⟨hsame.mode.trans hm, hsame.resp, hsame.program, hsame.cmd, hsame.a, hsame.b, hsame.t,
    hsame.upc, hw.trans (takeInput_w s), hie.trans (takeInput_ie s),
    hviol.trans (takeInput_viol s), fun hi => ?_⟩
  rw [heq hi]
  exact takeInput_eq s

/-! ### The invariant and progress (10_state.md R37) -/

/-- Settles O42. -/
theorem invAtReset : Obligations.InvAtReset := by
  unfold Obligations.InvAtReset
  exact ⟨by decide, nofun⟩

/-- Settles O27: by the values of `State.reset` and the default register map. -/
theorem stateAfterReset : Obligations.StateAfterReset := by
  unfold Obligations.StateAfterReset
  exact ⟨rfl, rfl, rfl, invAtReset.1⟩

/-- Settles O37: the three disjuncts of the line are the three events. -/
theorem interruptRequestLine : Obligations.InterruptRequestLine := by
  unfold Obligations.InterruptRequestLine
  intro s
  simp only [irq, Bool.or_eq_true, Bool.and_eq_true]
  constructor
  · rintro ((h | h) | h)
    · exact ⟨.ow, h⟩
    · exact ⟨.alr, h⟩
    · exact ⟨.sec, h⟩
  · rintro ⟨e, h⟩
    cases e with
    | ow => exact .inl (.inl h)
    | alr => exact .inl (.inr h)
    | sec => exact .inr h

/-- The invariant rests on the controller alone. -/
theorem Inv.of_same (h : Inv s) (hs : SameController s s') : Inv s' := by
  refine ⟨by rw [hs.cfg]; exact h.1, fun hb => ?_⟩
  obtain ⟨i, he⟩ := h.2 (hs.mode ▸ hb)
  exact ⟨i, he.of_same hs⟩

/-- A state that is not BUSY meets the invariant when its configuration is well-formed. -/
theorem Inv.of_not_busy (hw : s.cfg.wf = true) (hm : s.mode ≠ .busy) : Inv s :=
  ⟨hw, fun hb => absurd hb hm⟩

/-- Every operation has a micro-step (10_state.md R41). -/
theorem microCount_pos (i : Instr) : 0 < microCount i := by
  cases i <;> simp [microCount]

/-- A command latched in range is under way at its first micro-step. -/
theorem executing_latch (hp : precond s.cfg i = true) : Executing i (latch (encode i) s) :=
  ⟨rfl, rfl, argField_encode i, enField_encode i, hp, microCount_pos i⟩

/-- Acceptance establishes the invariant (10_state.md R40). -/
theorem inv_accept (hw : s.cfg.wf = true) : Inv (accept i s) := by
  by_cases hp : precond s.cfg i = true
  · rw [accept_of_precond hp]
    exact ⟨hw, fun _ => ⟨i, executing_latch hp⟩⟩
  · rw [accept_of_not_precond (Bool.eq_false_iff.2 hp)]
    exact Inv.of_not_busy hw nofun

/-- A micro-step leaves the configuration. -/
theorem MicroStep.cfg (m : MicroStep s s') : s'.cfg = s.cfg := by
  cases m with
  | reads r h => cases h <;> simp
  | writes r v h => cases h <;> simp

/-- A BUSY controller that meets the invariant executes the operation in `CMD`. -/
theorem Inv.executing (h : Inv s) (hb : s.mode = .busy) (hd : decode s.cmd = .command i) :
    Executing i s := by
  obtain ⟨j, he⟩ := h.2 hb
  obtain rfl : j = i := Decoded.command.inj (he.decode_cmd.symm.trans hd)
  exact he

/-- A micro-step leaves the operation under way or the controller idle (10_state.md R41, R42). -/
theorem executing_or_idle (hw : s.cfg.wf = true) (he : Executing i s) (h : exec i s = .next s') :
    Executing i s' ∨ s'.mode = .idle := by
  obtain ⟨u, hu, hend⟩ := completesAtLastMicroStep i s hw he
  obtain rfl : s' = u := Host.Outcome.next.inj (h.symm.trans hu)
  split at hend
  · exact .inr hend.1
  · exact .inl hend.1

/-- The controller's turn keeps the invariant. -/
theorem ControllerMove.inv (h : ControllerMove s s') (hI : Inv s) : Inv s' := by
  cases h with
  | passes _ e => exact e ▸ hI
  | accepts _ c rest i _ _ e => exact e ▸ inv_accept hI.1
  | illegal _ c rest why _ _ e => exact e ▸ Inv.of_not_busy hI.1 nofun
  | micro hb i hd hx m =>
    have hw : s'.cfg.wf = true := by rw [m.cfg]; exact hI.1
    rcases executing_or_idle hI.1 (hI.executing hb hd) hx with he | hidle
    · exact ⟨hw, fun _ => ⟨i, he⟩⟩
    · exact Inv.of_not_busy hw (by simp [hidle])

/-- Settles O43: the controller's turn keeps the invariant, the hardware reset ends the operation, and
the other agents leave the controller alone. -/
theorem invKeptByEveryStep : Obligations.InvKeptByEveryStep := by
  unfold Obligations.InvKeptByEveryStep
  intro s s' hI h
  have h0 : Inv (takeInput s).2 := hI.of_same (sameController_takeInput s)
  have hmove := (step_cases h).2
  have hother (hc : (takeInput s).1.move ≠ .controller)
      (hr : (takeInput s).1.move ≠ .hardwareReset) : Inv s' :=
    h0.of_same (hmove.sameController hc hr)
  cases hmove with
  | controller _ hm => exact hm.inv h0
  | hardwareReset _ e => exact e ▸ Inv.of_not_busy h0.1 nofun
  | sync hi | rtcCore _ hi | readResponse hi => exact hother (by simp [hi]) (by simp [hi])

/-- From a state that meets the invariant the controller's turn is answered. -/
theorem controllerStep_answers (hI : Inv s) : ∃ s', controllerStep s = .next s' := by
  unfold controllerStep
  split
  case h_1 hm =>
    split
    case h_1 => exact ⟨_, rfl⟩
    case h_2 c rest hp =>
      split
      case h_1 i hd => exact ⟨_, exec_idle hI.1 hm⟩
      case h_2 => exact ⟨_, rfl⟩
  case h_2 hb =>
    obtain ⟨i, he⟩ := hI.2 hb
    obtain ⟨u, hu, -⟩ := completesAtLastMicroStep i s hI.1 he
    rw [he.decode_cmd]
    exact ⟨u, hu⟩
  case h_3 => exact ⟨_, rfl⟩

/-- Settles O44: every agent's turn is answered, the controller's by the invariant. -/
theorem machineNeverStops : Obligations.MachineNeverStops := by
  unfold Obligations.MachineNeverStops
  intro s hI
  rw [step_eq hI.1, agentStep]
  split
  case h_1 => exact controllerStep_answers (hI.of_same (sameController_takeInput s))
  all_goals exact ⟨_, rfl⟩

end Sys2Proof.Machine

/-!
PROOF. What a step can do to the register block, said once: who stores a plain word, accepts or
violates a synchronized write, writes the status word, commits and counts (20_memory.md R64 to R72).
The rules on the writers of each part of the block follow by cases.
-/

namespace Sys2Proof.Machine

open Sys2Proof

variable {i : Instr} {s s' u : State} {inp : Input}

/-- The register block and the violation mark are the same. -/
structure SameBlock (s s' : State) : Prop where
  w : s'.w = s.w
  cnt : s'.cnt = s.cnt
  alrm : s'.alrm = s.alrm
  prl : s'.prl = s.prl
  div : s'.div = s.div
  flg : s'.flg = s.flg
  ie : s'.ie = s.ie
  pending : s'.pending = s.pending
  viol : s'.viol = s.viol

theorem SameBlock.refl (s : State) : SameBlock s s := by constructor <;> rfl

/-- The end of a micro-step leaves the block. -/
theorem Ends.sameBlock (h : Ends u s') : SameBlock u s' := by
  cases h <;> constructor <;> rfl

/-- A read leaves the block (20_memory.md R63). -/
theorem sameBlock_read (r : Reg) (s : State) :
    SameBlock s ((Access.read r).perform s) := by
  constructor <;> simp [Access.perform]

/-- Acceptance makes no bus access (10_state.md R40). -/
theorem sameBlock_accept (i : Instr) (s : State) : SameBlock s (accept i s) := by
  unfold accept
  split <;> constructor <;> rfl

theorem SameBlock.trans (h : SameBlock s u) (h' : SameBlock u s') : SameBlock s s' := by
  obtain ⟨h1, h2, h3, h4, h5, h6, h7, h8, h9⟩ := h
  obtain ⟨k1, k2, k3, k4, k5, k6, k7, k8, k9⟩ := h'
  exact ⟨k1.trans h1, k2.trans h2, k3.trans h3, k4.trans h4, k5.trans h5, k6.trans h6,
    k7.trans h7, k8.trans h8, k9.trans h9⟩

/-- The controller has the turn and performs a micro-step of `i`. -/
structure Performs (inp : Input) (i : Instr) (s : State) : Prop where
  move : inp.move = .controller
  busy : s.mode = .busy
  cmd : decode s.cmd = .command i

/-- What a step can do to the register block of `s`. -/
inductive BlockMove (inp : Input) (s : State) : State → Prop where
  | stays : BlockMove inp s s
  | commits (p : Pending) (hi : inp = ⟨.sync, true⟩) (hp : s.pending = some p) :
      BlockMove inp s { setCommitted p.reg p.val s with pending := none }
  | counts (m : RtcMove) (hi : inp.move = .rtcCore m) : BlockMove inp s (rtcCoreStep m s)
  | stores (k : Fin 16) (v : Word) (i : Instr) (hx : Performs inp i s)
      (ho : i = .reset ∨ (k = 15 ∧ IsConfigOp i)) : BlockMove inp s (setPlain k v s)
  | writes (x : Synced) (v : Word) (i : Instr) (hx : Performs inp i s) (ho : IsSyncedWriter i)
      (hp : s.pending = none) : BlockMove inp s { s with pending := some ⟨x, v⟩ }
  | violates (i : Instr) (hx : Performs inp i s) (ho : IsSyncedWriter i)
      (hp : s.pending ≠ none) : BlockMove inp s (violate s)
  | status (v : Word) (i : Instr) (hx : Performs inp i s)
      (ho : clearedBy s.cfg v = Events.none ∨ ∃ set, i = .clearFlags set) :
      BlockMove inp s (writeCs v s)

/-- A bus write by its kind of register (20_memory.md R64 to R71). -/
theorem blockMove_writeReg {r : Reg} {v : Word} (hx : Performs inp i s)
    (ho : MayWrite s.cfg i v r) : BlockMove inp s (writeReg r v s) := by
  cases r with
  | plain k => exact .stores k v i hx ho
  | synced x =>
    by_cases hp : s.pending = none
    · rw [writeReg, writeSynced_none hp]
      exact .writes x v i hx ho hp
    · rw [writeReg, writeSynced_some hp]
      exact .violates i hx ho hp
  | div => exact .stays
  | cs => exact .status v i hx ho

/-- A micro-step reads, which leaves the block, or makes the write of its operation. -/
theorem blockMove_exec (hw : s.cfg.wf = true) (hx : Performs inp i s)
    (h : exec i s = .next s') : ∃ u, BlockMove inp s u ∧ SameBlock u s' := by
  rw [exec_busy hw hx.busy] at h
  cases ha : access i s with
  | none => rw [ha] at h; exact nomatch h
  | some a =>
    rw [ha] at h
    injection h with h
    subst h
    have hend := (finish_ends i (a.perform s)).sameBlock
    cases a with
    | read r => exact ⟨s, .stays, (sameBlock_read r s).trans hend⟩
    | write r v => exact ⟨_, blockMove_writeReg hx (mayWrite_of_access hw ha), hend⟩

/-- What a step of the system can do to the register block. -/
theorem SystemMove.blockMove (hw : s.cfg.wf = true) (h : SystemMove inp s s') :
    ∃ u, BlockMove inp s u ∧ SameBlock u s' := by
  cases h with
  | controller hi h =>
    cases h with
    | passes _ e => exact ⟨s, .stays, e ▸ .refl s⟩
    | accepts _ c rest i _ _ e =>
      have hprogram : SameBlock s { s with program := rest } := by constructor <;> rfl
      exact ⟨s, .stays, e ▸ hprogram.trans (sameBlock_accept i _)⟩
    | illegal _ c rest why _ _ e => exact ⟨s, .stays, by subst e; constructor <;> rfl⟩
    | micro hb i hd hx => exact blockMove_exec hw ⟨hi, hb, hd⟩ hx
  | sync hi e =>
    rcases syncStep_cases inp.clk s with hs | ⟨p, hclk, hp, hs⟩
    · exact ⟨s, .stays, by rw [e, hs]; exact .refl s⟩
    · obtain ⟨move, clk⟩ := inp
      cases hi
      cases hclk
      exact ⟨_, .commits p rfl hp, by rw [e, hs]; exact .refl _⟩
  | rtcCore m hi e => exact ⟨_, .counts m hi, e ▸ .refl _⟩
  | readResponse _ e => exact ⟨s, .stays, e ▸ .refl s⟩
  | hardwareReset _ e => exact ⟨s, .stays, by subst e; constructor <;> rfl⟩

/-- What a step does to the register block, once it has taken its input. -/
theorem step_blockMove (h : step s = .next s') :
    ∃ u, BlockMove (takeInput s).1 (takeInput s).2 u ∧ SameBlock u s' := by
  obtain ⟨hw, hm⟩ := step_cases h
  exact hm.blockMove (by simpa using hw)

/-- The micro-step of a state is that of the state before it took its input. -/
theorem Performs.of_takeInput (h : Performs inp i (takeInput s).2) : Performs inp i s :=
  ⟨h.move, by simpa using h.busy, by simpa using h.cmd⟩

/-- Settles O45: of the moves on the block the violation alone touches the mark, and sets it. -/
theorem violationMarkSticky : Obligations.ViolationMarkSticky := by
  unfold Obligations.ViolationMarkSticky
  intro s s' h
  obtain ⟨u, hu, hs⟩ := step_blockMove h
  rw [hs.viol]
  cases hu with
  | violates i hx ho hp =>
    have hx := hx.of_takeInput
    exact ⟨fun _ => rfl, fun _ _ => ⟨hx.move, hx.busy, by simpa using hp⟩⟩
  | stays | commits | counts | stores | writes | status => simp +contextual

/-- Settles O47: `RtcCore` alone raises flags, and a write of the status word lowers those it
clears. -/
theorem onlyRtcCoreRaisesFlags : Obligations.OnlyRtcCoreRaisesFlags := by
  unfold Obligations.OnlyRtcCoreRaisesFlags
  intro s s' e h
  obtain ⟨u, hu, hs⟩ := step_blockMove h
  rw [hs.flg]
  cases hu with
  | counts m hi => exact ⟨fun _ _ => ⟨m, hi⟩, by simp +contextual⟩
  | status v i hx ho =>
    have hx := hx.of_takeInput
    refine ⟨by simp +contextual, fun hset hclear => ⟨hx.move, hx.busy, ?_⟩⟩
    rcases ho with hnone | ⟨set, rfl⟩
    · rw [writeCs_flg, hnone] at hclear
      simp [hset] at hclear
    · exact ⟨set, hx.cmd⟩
  | stays | commits | stores | writes | violates => simp +contextual

/-- Settles O48: a commit empties the slot and an accepted write fills it. -/
theorem writeEnableCompleteMoves : Obligations.WriteEnableCompleteMoves := by
  unfold Obligations.WriteEnableCompleteMoves
  intro s s' h
  obtain ⟨u, hu, hs⟩ := step_blockMove h
  rw [hs.pending]
  cases hu with
  | commits p hi => exact ⟨fun _ _ => hi, by simp⟩
  | writes x v i hx ho hp =>
    have hx := hx.of_takeInput
    refine ⟨by simp, fun _ _ => ⟨hx.move, hx.busy, ?_⟩⟩
    rcases ho with rfl | ⟨v, rfl⟩ | ⟨v, rfl⟩ | ⟨v, rfl⟩
    · exact .inl hx.cmd
    · exact .inr ⟨v, .inl hx.cmd⟩
    · exact .inr ⟨v, .inr (.inl hx.cmd)⟩
    · exact .inr ⟨v, .inr (.inr hx.cmd)⟩
  | violates i hx ho hp => exact ⟨by simp, fun hnone => absurd hnone (by simpa using hp)⟩
  | stays | counts | stores | status => simp +contextual

/-- The configuration operations are those with a formula for `REG_0F`
(41_config_field_ops.md R140 to R144). -/
theorem IsConfigOp.configResult_isSome (h : IsConfigOp i) (c : Cfg) (old : Word) :
    (configResult c old i).isSome = true := by
  rcases h with ⟨arg, rfl⟩ | ⟨en, rfl⟩ | ⟨arg, rfl⟩ | ⟨en, rfl⟩ <;> rfl

/-- Settles O49: a plain word changes where it is stored. -/
theorem plainWordWriters : Obligations.PlainWordWriters := by
  unfold Obligations.PlainWordWriters
  intro s s' k h hne
  obtain ⟨u, hu, hs⟩ := step_blockMove h
  rw [hs.w] at hne
  cases hu with
  | stores j v i hx ho =>
    have hx := hx.of_takeInput
    have hjk : j = k := by
      by_contra hjk
      exact hne (by simp [Fin.val_inj, hjk])
    refine ⟨hx.move, hx.busy, ?_⟩
    rcases ho with rfl | ⟨rfl, hconfig⟩
    · exact .inl hx.cmd
    · exact .inr ⟨hjk.symm, i, hx.cmd, hconfig.configResult_isSome _ _⟩
  | stays | commits | counts | writes | violates | status => simp at hne

/-- A micro-step of a writer of the synchronized registers, in the words of the statements. -/
theorem Performs.writesSynchronized (hx : Performs inp i s) (ho : IsSyncedWriter i) :
    WritesSynchronized s := by
  refine ⟨hx.busy, ?_⟩
  rcases ho with rfl | ⟨v, rfl⟩ | ⟨v, rfl⟩ | ⟨v, rfl⟩
  · exact .inl hx.cmd
  · exact .inr (.inl ⟨v, hx.cmd⟩)
  · exact .inr (.inr (.inl ⟨v, hx.cmd⟩))
  · exact .inr (.inr (.inr ⟨v, hx.cmd⟩))

/-- A synchronized register but the counter changes by the commit of its pending value or by a
violation (20_memory.md R66, R67, R72). -/
theorem committed_writers {x : Synced} (hx : x ≠ .cnt) (h : step s = .next s')
    (hne : committed s' x ≠ committed s x) :
    ((takeInput s).1 = ⟨.sync, true⟩ ∧ s.pending = some ⟨x, committed s' x⟩)
      ∨ ((takeInput s).1.move = .controller ∧ WritesSynchronized s ∧ s.pending ≠ none
        ∧ s'.viol = true) := by
  obtain ⟨u, hu, hs⟩ := step_blockMove h
  have hc : committed s' x = committed u x := by
    cases x
    · exact hs.cnt
    · exact hs.alrm
    · exact hs.prl
  have h0 : committed (takeInput s).2 x = committed s x := by
    cases x
    · exact absurd rfl hx
    · simp [committed]
    · simp [committed]
  rw [hc, ← h0] at hne
  rw [hc]
  cases hu with
  | commits p hi hp =>
    obtain ⟨y, v⟩ := p
    have hu : committed { setCommitted y v (takeInput s).2 with pending := none } x
        = if y = x then v else committed (takeInput s).2 x :=
      committed_setCommitted y x v _
    by_cases hy : y = x
    · rw [hu, if_pos hy, ← hy]
      exact .inl ⟨hi, by simpa using hp⟩
    · rw [hu, if_neg hy] at hne
      exact absurd rfl hne
  | violates i hp ho hne0 =>
    have hp := hp.of_takeInput
    exact .inr ⟨hp.move, hp.writesSynchronized ho, by simpa using hne0, hs.viol⟩
  | counts m hi =>
    cases x
    · exact absurd rfl hx
    all_goals exact absurd rfl hne
  | stays | stores | writes | status => exact absurd (by cases x <;> rfl) hne

/-- Settles O50: the alarm and the reload value are synchronized registers but the counter. -/
theorem alarmAndReloadWriters : Obligations.AlarmAndReloadWriters := by
  unfold Obligations.AlarmAndReloadWriters
  intro s s' h
  exact ⟨committed_writers (x := .alrm) nofun h, committed_writers (x := .prl) nofun h⟩

end Sys2Proof.Machine

/-!
PROOF. No rule reads the ghost mark (10_state.md R30): every operation of the machine answers the
same, the mark forgotten, whatever the mark was.
-/

namespace Sys2Proof.Machine

open Sys2Proof

/-- The state with the violation mark given. -/
def mark (b : Bool) (s : State) : State := { s with viol := b }

@[simp] theorem mark_cfg (b : Bool) (s : State) : (mark b s).cfg = s.cfg := rfl
@[simp] theorem mark_mode (b : Bool) (s : State) : (mark b s).mode = s.mode := rfl
@[simp] theorem mark_cmd (b : Bool) (s : State) : (mark b s).cmd = s.cmd := rfl
@[simp] theorem mark_upc (b : Bool) (s : State) : (mark b s).upc = s.upc := rfl
@[simp] theorem mark_pending (b : Bool) (s : State) : (mark b s).pending = s.pending := rfl
@[simp] theorem mark_program (b : Bool) (s : State) : (mark b s).program = s.program := rfl
@[simp] theorem mark_inputs (b : Bool) (s : State) : (mark b s).inputs = s.inputs := rfl

theorem forgetViol_next (s : State) : forgetViol (.next s) = .next (mark false s) := rfl

/-- A bus access answers the same whatever the mark. -/
theorem perform_mark (a : Access) (b : Bool) (s : State) :
    mark false (a.perform (mark b s)) = mark false (a.perform s) := by
  cases a with
  | read r =>
    cases r with
    | synced x =>
      simp only [Access.perform, readReg, readSynced]
      rw [mark_pending]
      split
      · cases x <;> rfl
      · split
        · rw [mark_cfg]
          split <;> cases x <;> rfl
        · cases x <;> rfl
    | plain | div | cs => rfl
  | write r v =>
    cases r with
    | synced x =>
      simp only [Access.perform, writeReg, writeSynced]
      rw [mark_pending]
      split <;> rfl
    | plain | div | cs => rfl

/-- The end of a micro-step leaves the mark and does not look at it. -/
theorem finish_mark (i : Instr) (b : Bool) (u : State) :
    finish i (mark b u) = mark b (finish i u) := by
  have hpoll : pollDecide (mark b u) = mark b (pollDecide u) := by
    by_cases h : u.cfg.asserted u.t = true
    · rw [pollDecide, pollDecide, if_pos h]
      exact if_pos h
    · rw [pollDecide, pollDecide, if_neg h]
      exact if_neg h
  have hdata : answerData i (mark b u) = answerData i u := by cases i <;> rfl
  rw [finish, finish, hpoll, hdata, mark_upc]
  split
  · rfl
  · split <;> rfl

/-- The access of a micro-step does not depend on the mark. -/
theorem access_mark (i : Instr) (b : Bool) (s : State) : access i (mark b s) = access i s := by
  cases i <;> rfl

/-- Acceptance leaves the mark and does not look at it. -/
theorem accept_mark (i : Instr) (b : Bool) (s : State) :
    accept i (mark b s) = mark b (accept i s) := by
  by_cases h : precond s.cfg i = true
  · rw [accept_of_precond h]
    exact accept_of_precond h
  · have h := Bool.eq_false_iff.2 h
    rw [accept_of_not_precond h]
    exact accept_of_not_precond h

/-- A controller step for an operation answers the same whatever the mark. -/
theorem forgetViol_exec (i : Instr) (b : Bool) (s : State) :
    forgetViol (exec i (mark b s)) = forgetViol (exec i s) := by
  by_cases hw : s.cfg.wf = true
  · cases hm : s.mode with
    | idle =>
      rw [exec_idle hw hm, exec_idle (s := mark b s) hw hm, accept_mark]
      rfl
    | busy =>
      rw [exec_busy hw hm, exec_busy (s := mark b s) hw hm, access_mark]
      cases access i s with
      | none => rfl
      | some a =>
        simp only [answer, forgetViol_next, ← finish_mark, perform_mark]
    | halted => rw [exec_halted hw hm, exec_halted (s := mark b s) hw hm]
  · have hw := Bool.eq_false_iff.2 hw
    rw [exec_refused hw, exec_refused (s := mark b s) hw]

/-- The controller's turn answers the same whatever the mark. -/
theorem forgetViol_controllerStep (b : Bool) (s : State) :
    forgetViol (controllerStep (mark b s)) = forgetViol (controllerStep s) := by
  simp only [controllerStep]
  rw [mark_mode, mark_program, mark_cmd]
  split
  case h_1 =>
    split
    case h_1 => rfl
    case h_2 c rest hp =>
      split
      case h_1 i hd => exact forgetViol_exec i b { s with program := rest }
      case h_2 => rfl
  case h_2 =>
    split
    case h_1 i hd => exact forgetViol_exec i b s
    case h_2 => rfl
  case h_3 => rfl

/-- `Sync` answers the same whatever the mark. -/
theorem syncStep_mark (clk b : Bool) (s : State) :
    syncStep clk (mark b s) = mark b (syncStep clk s) := by
  simp only [syncStep]
  rw [mark_pending]
  split
  case h_1 => rfl
  case h_2 p hp =>
    obtain ⟨x, v⟩ := p
    cases clk
    · rfl
    · cases x <;> rfl

/-- An agent's step answers the same whatever the mark. -/
theorem forgetViol_agentStep (inp : Input) (b : Bool) (s : State) :
    forgetViol (agentStep inp (mark b s)) = forgetViol (agentStep inp s) := by
  simp only [agentStep]
  split
  · exact forgetViol_controllerStep b s
  · rw [syncStep_mark]; rfl
  all_goals rfl

/-- The input of a step does not depend on the mark. -/
theorem takeInput_mark (b : Bool) (s : State) :
    takeInput (mark b s) = ((takeInput s).1, mark b (takeInput s).2) := by
  simp only [takeInput]
  rw [mark_inputs]
  split <;> rfl

/-- Settles O46: the mark is passed on, or set, and looked at nowhere. -/
theorem violationMarkNeverRead : Obligations.ViolationMarkNeverRead := by
  unfold Obligations.ViolationMarkNeverRead
  intro s b
  change forgetViol (step (mark b s)) = _
  by_cases hw : s.cfg.wf = true
  · rw [step_eq hw, step_eq (s := mark b s) hw, takeInput_mark]
    exact forgetViol_agentStep _ b _
  · have hw := Bool.eq_false_iff.2 hw
    rw [step_refused hw, step_refused (s := mark b s) hw]

end Sys2Proof.Machine

/-!
PROOF. Fair runs: an operation under way stays under way, its `upc` standing still, until the
controller has its turn; so in a fair run `upc` reaches the last micro-step (20_memory.md R67,
43_sync_status_ops.md R181).
-/

namespace Sys2Proof.Machine

open Sys2Proof

variable {i : Instr} {s s' : State} {σ : Nat → Input} {r : Nat → State} {n : Nat}

/-- The operation `i` has ended with `OK`, `WaitForUpdate` with no data and no write pending. -/
def Completed (i : Instr) (s : State) : Prop :=
  s.mode = .idle ∧ s.resp.status = 0#2
    ∧ (i = .waitForUpdate → s.resp = ⟨0#2, 0#32⟩ ∧ s.pending = none)

/-- The next micro-step of `i` completes it (10_state.md R42, 43_sync_status_ops.md R181). -/
def AtLastStep (i : Instr) (s : State) : Prop :=
  s.upc.toNat + 1 = microCount i ∧ (i = .waitForUpdate → s.pending = none)

/-- The last micro-step completes the operation. -/
theorem completed_of_last (hw : s.cfg.wf = true) (he : Executing i s) (hl : AtLastStep i s)
    (h : exec i s = .next s') : Completed i s' := by
  obtain ⟨u, hu, hend⟩ := completesAtLastMicroStep i s hw he
  obtain rfl : s' = u := Host.Outcome.next.inj (h.symm.trans hu)
  obtain ⟨hm, hs, -⟩ := (if_pos hl).mp hend
  refine ⟨hm, hs, fun hi => ?_⟩
  subst hi
  have hp := hl.2 rfl
  rw [exec_waitForUpdate hw he, poll_completes hw hp] at h
  obtain rfl := Host.Outcome.next.inj h
  exact ⟨rfl, hp⟩

/-- A micro-step before the last leaves the operation under way. -/
theorem executing_of_not_last (hw : s.cfg.wf = true) (he : Executing i s) (hl : ¬ AtLastStep i s)
    (h : exec i s = .next s') : Executing i s' := by
  obtain ⟨u, hu, hend⟩ := completesAtLastMicroStep i s hw he
  obtain rfl : s' = u := Host.Outcome.next.inj (h.symm.trans hu)
  exact ((if_neg hl).mp hend).1

section Run

variable (hrun : IsRun σ r) (hnr : ∀ n, (σ n).move ≠ .hardwareReset)

include hrun in
/-- The controller's turn in a run is a micro-step of the operation under way. -/
theorem exec_of_turn (he : Executing i (r n)) (hc : (σ n).move = .controller) :
    exec i { r n with inputs := [] } = .next (r (n + 1)) := by
  have hinput : [σ n] = [⟨.controller, (σ n).clk⟩] := by rw [← hc]
  have hstep := (stepRunsDecoded { r n with inputs := [σ n] } _ [] i (hrun.move n).1 hinput).2
    he.busy he.decode_cmd
  exact hstep.symm.trans (hrun n)

include hrun hnr in
/-- Any other turn leaves the operation at the micro-step where it stands. -/
theorem executing_of_other_turn (he : Executing i (r n)) (hc : (σ n).move ≠ .controller) :
    Executing i (r (n + 1)) ∧ (r (n + 1)).upc = (r n).upc := by
  have hsame := (hrun.move n).2.sameController hc (hnr n)
  exact ⟨Executing.of_same (s := { r n with inputs := [] }) he hsame, hsame.upc⟩

include hrun hnr in
/-- An operation under way is under way after the next step, or completed. -/
theorem executing_or_completed (he : Executing i (r n)) :
    Executing i (r (n + 1)) ∨ Completed i (r (n + 1)) := by
  by_cases hc : (σ n).move = .controller
  · have hx := exec_of_turn hrun he hc
    by_cases hl : AtLastStep i { r n with inputs := [] }
    · exact .inr (completed_of_last (s := { r n with inputs := [] }) (hrun.move n).1 he hl hx)
    · exact .inl (executing_of_not_last (s := { r n with inputs := [] }) (hrun.move n).1 he hl hx)
  · exact .inl (executing_of_other_turn hrun hnr he hc).1

include hrun hnr in
/-- An operation that never completes stays under way. -/
theorem executing_forever (h0 : Executing i (r 0)) (hno : ∀ n, ¬ Completed i (r n)) (n : Nat) :
    Executing i (r n) := by
  induction n with
  | zero => exact h0
  | succ n ih => exact (executing_or_completed hrun hnr ih).resolve_right (hno _)

/-- In a fair run a controller that stays BUSY has a turn after every step. -/
theorem exists_turn (hfair : ControllerFair σ r) (he : ∀ n, Executing i (r n)) (n : Nat) :
    ∃ m, n ≤ m ∧ (σ m).move = .controller :=
  hfair n fun m _ => (he m).busy

include hrun in
/-- The controller's turn moves `upc` on, unless the operation is the poll (10_state.md R32). -/
theorem upc_of_turn (hi : i ≠ .waitForUpdate) (he : Executing i (r n))
    (hc : (σ n).move = .controller) : (r (n + 1)).upc.toNat = (r n).upc.toNat + 1 := by
  have h := microStepCounter i { r n with inputs := [] } _ (hrun.move n).1 he
    (exec_of_turn hrun he hc)
  rwa [if_neg fun h => hi h.1] at h

include hrun hnr in
/-- An operation but the poll, under way for ever in a fair run, would pass every number. -/
theorem upc_unbounded (hi : i ≠ .waitForUpdate) (hfair : ControllerFair σ r)
    (he : ∀ n, Executing i (r n)) (k : Nat) : ∃ n, k ≤ (r n).upc.toNat := by
  have hmono : Monotone fun n => (r n).upc.toNat := monotone_nat_of_le_succ fun n => by
    by_cases hc : (σ n).move = .controller
    · rw [upc_of_turn hrun hi (he n) hc]
      exact Nat.le_succ _
    · rw [(executing_of_other_turn hrun hnr (he n) hc).2]
  induction k with
  | zero => exact ⟨0, Nat.zero_le _⟩
  | succ k ih =>
    obtain ⟨n, hn⟩ := ih
    obtain ⟨m, hnm, hc⟩ := exists_turn hfair he n
    have hle : (r n).upc.toNat ≤ (r m).upc.toNat := hmono hnm
    exact ⟨m + 1, by rw [upc_of_turn hrun hi (he m) hc]; omega⟩

include hrun in
/-- A poll writes no synchronized register: an empty slot stays empty (20_memory.md R65). -/
theorem pending_none_of_poll (he : ∀ n, Executing .waitForUpdate (r n)) {m : Nat} (hnm : n ≤ m)
    (hp : (r n).pending = none) : (r m).pending = none := by
  induction m, hnm using Nat.le_induction with
  | base => exact hp
  | succ m _ ih =>
    by_contra hfull
    obtain ⟨-, -, hd⟩ := (writeEnableCompleteMoves _ _ (hrun m)).2 ih hfull
    have hcmd : decode (r m).cmd = .command .waitForUpdate := (he m).decode_cmd
    simp [hcmd] at hd

include hrun in
/-- A poll that never completes in a fair run finds a write pending for ever. -/
theorem pending_of_poll (hfair : ControllerFair σ r) (he : ∀ n, Executing .waitForUpdate (r n))
    (hno : ∀ n, ¬ Completed .waitForUpdate (r n)) (n : Nat) : (r n).pending ≠ none := by
  intro hp
  obtain ⟨m, hnm, hc⟩ := exists_turn hfair he n
  have hu : (r m).upc.toNat = 0 := Nat.lt_one_iff.1 (he m).upc_lt
  have hl : AtLastStep .waitForUpdate { r m with inputs := [] } :=
    ⟨congrArg (· + 1) hu, fun _ => pending_none_of_poll hrun he hnm hp⟩
  exact hno (m + 1) (completed_of_last (s := { r m with inputs := [] }) (hrun.move m).1 (he m) hl
    (exec_of_turn hrun (he m) hc))

include hrun in
/-- Once the clock runs, a fair run does not keep the slot full for ever (20_memory.md R67). -/
theorem pending_not_forever (hsync : SyncFair σ r) (hclk : ClockRuns σ) :
    ¬ ∀ n, (r n).pending ≠ none := by
  intro hp
  obtain ⟨n, hn⟩ := hclk
  have hen (m : Nat) (hm : n ≤ m) : SyncEnabledAt σ r m := ⟨hp m, hn m hm⟩
  obtain ⟨m, hm, hmove⟩ := hsync n hen
  exact hp (m + 1) (hrun.sync_clears (hen m hm) hmove)

end Run

/-- Settles O59: an operation that never completed would stay under way; then `upc` would pass its
last micro-step, or, under a poll, the slot would stay full against the fairness of `Sync`. -/
theorem fairRunsComplete : Obligations.FairRunsComplete := by
  unfold Obligations.FairRunsComplete
  intro σ r i ⟨hrun, hsync, hfair⟩ h0 hnr hclk
  change ∃ n, Completed i (r n)
  by_contra hnone
  have hno (n : Nat) : ¬ Completed i (r n) := fun h => hnone ⟨n, h⟩
  have he := executing_forever hrun hnr h0 hno
  by_cases hi : i = .waitForUpdate
  · subst hi
    exact pending_not_forever hrun hsync (hclk rfl) (pending_of_poll hrun hfair he hno)
  · obtain ⟨n, hn⟩ := upc_unbounded hrun hnr hi hfair he (microCount i)
    exact absurd hn (Nat.not_le_of_lt (he n).upc_lt)

end Sys2Proof.Machine

/-!
PROOF. The operations on `REG_0F` and on `RTC_CS` under every schedule: a step made while an operation
is under way is its micro-step, the hardware reset, or a move of another agent, which keeps the
controller, the plain words, the enables and every raised flag (20_memory.md R75).
-/

namespace Sys2Proof.Machine

open Sys2Proof

variable {i : Instr} {s s' : State} {inp : Input}

/-- What the moves of the other agents keep of the register block: the plain words, the enables and
every raised flag. -/
def KeepsStatus (s s' : State) : Prop :=
  s'.w = s.w ∧ s'.ie = s.ie ∧ ∀ e, s.flg.has e = true → s'.flg.has e = true

/-- A commit writes no plain word and no bit of `RTC_CS` (20_memory.md R67). -/
theorem keepsStatus_syncStep (clk : Bool) (s : State) : KeepsStatus s (syncStep clk s) := by
  rcases syncStep_cases clk s with e | ⟨p, -, -, e⟩
  · rw [e]; exact ⟨rfl, rfl, fun _ => id⟩
  · rw [e]; exact ⟨setCommitted_w .., setCommitted_ie .., fun _ => by simp⟩

/-- `RtcCore` writes no plain word and no enable, and clears no flag (20_memory.md R72). -/
theorem keepsStatus_rtcCoreStep (m : RtcMove) (s : State) : KeepsStatus s (rtcCoreStep m s) :=
  ⟨rfl, rfl, fun e he => by simp [he]⟩

/-- The controller's turn is a micro-step of the operation under way. -/
theorem ControllerMove.of_executing (h : ControllerMove s s') (he : Executing i s) :
    exec i s = .next s' := by
  cases h with
  | passes hb => exact absurd he.busy hb
  | accepts hi => exact absurd (hi.symm.trans he.busy) (by decide)
  | illegal hi => exact absurd (hi.symm.trans he.busy) (by decide)
  | micro _ j hd hx =>
    obtain rfl : j = i := Decoded.command.inj (hd.symm.trans he.decode_cmd)
    exact hx

/-- What a move can do while an operation is under way: its micro-step, the hardware reset, or a move
that leaves the controller alone. -/
theorem SystemMove.of_executing (h : SystemMove inp s s') (he : Executing i s) :
    exec i s = .next s' ∨ (inp.move = .hardwareReset ∧ s' = Machine.hardwareReset s)
      ∨ (SameController s s' ∧ KeepsStatus s s') := by
  cases h with
  | controller _ h => exact .inl (h.of_executing he)
  | hardwareReset hi e => exact .inr (.inl ⟨hi, e⟩)
  | sync _ e =>
    subst e
    exact .inr (.inr ⟨sameController_syncStep _ _, keepsStatus_syncStep _ _⟩)
  | rtcCore m _ e =>
    subst e
    exact .inr (.inr ⟨by constructor <;> rfl, keepsStatus_rtcCoreStep m s⟩)
  | readResponse _ e =>
    subst e
    exact .inr (.inr ⟨.refl _, rfl, rfl, fun _ => id⟩)

/-! ### The two micro-steps of a read-modify-write -/

/-- An operation of two micro-steps responds with no data (30_encoding.md R110). -/
theorem answerData_of_microCount_two (h2 : microCount i = 2) (u : State) :
    answerData i u = 0#32 := by
  cases i
  case getCounter | getDivider | getFlag => exact absurd h2 (by simp [microCount])
  all_goals rfl

/-- A read-modify-write under way reads the register into `T`, or writes it and responds
(10_state.md R41, R42). -/
theorem modify_cases {r : Reg} {v : Word} (hw : s.cfg.wf = true) (he : Executing i s)
    (h2 : microCount i = 2) (ha : access i s = modifyAccess r v s.upc.toNat)
    (h : exec i s = .next s') :
    (s.upc = 0#5 ∧ s' = advance ((Access.read r).perform s))
      ∨ (s.upc = 1#5 ∧ s' = respond 0#32 (advance (writeReg r v s))) := by
  have hi : i ≠ .waitForUpdate := by rintro rfl; exact absurd h2 (by decide)
  rw [exec_busy hw he.busy, ha] at h
  have hu : s.upc.toNat < 2 := h2 ▸ he.upc_lt
  obtain h0 | h1 : s.upc.toNat = 0 ∨ s.upc.toNat = 1 := by omega
  · rw [h0] at h
    obtain rfl := Host.Outcome.next.inj h
    exact .inl ⟨BitVec.eq_of_toNat_eq h0, finish_goesOn hi (by rw [perform_upc]; omega)⟩
  · rw [h1] at h
    obtain rfl := Host.Outcome.next.inj h
    refine .inr ⟨BitVec.eq_of_toNat_eq h1, ?_⟩
    rw [finish_last hi (by rw [perform_upc]; omega), answerData_of_microCount_two h2]
    rfl

/-! ### The configuration operations -/

/-- A configuration operation is a read-modify-write of `REG_0F`, and writes the formula of its rule on
the word in `T` (41_config_field_ops.md R140 to R144). -/
theorem exists_configWord {old new : Word} (he : Executing i s)
    (hr : configResult s.cfg old i = some new) :
    microCount i = 2 ∧ ∃ v, access i s = modifyAccess (.plain 15) v s.upc.toNat
      ∧ (s.t = old → v = new) := by
  obtain ⟨-, -, ha, hb, -, -⟩ := he
  cases i
  case setClockSource arg | setCalibration arg =>
    refine ⟨rfl, _, rfl, fun ht => ?_⟩
    rw [ht, ha]
    exact Option.some.inj hr
  case setEnabled en | setReset en =>
    refine ⟨rfl, _, rfl, fun ht => ?_⟩
    rw [ht, hb]
    exact Option.some.inj hr
  all_goals exact nomatch hr

/-- What a move can do to a configuration operation under way (41_config_field_ops.md R145 d). -/
theorem SystemMove.of_configUnderWay {old new : Word} (h : SystemMove inp s s')
    (hw : s.cfg.wf = true) (hr : configResult s.cfg old i = some new)
    (hu : ConfigUnderWay old i s) :
    (ConfigUnderWay old i s' ∧ s'.w = s.w)
      ∨ (s'.mode = .idle ∧ s'.resp = ⟨0#2, 0#32⟩ ∧ s'.w = s.w.set 0x0F new)
      ∨ (inp.move = .hardwareReset ∧ s'.mode = .idle ∧ s'.w = s.w) := by
  obtain ⟨he, hold, ht⟩ := hu
  rcases h.of_executing he with hx | ⟨hi, rfl⟩ | ⟨hsame, hword, -, -⟩
  · obtain ⟨h2, v, ha, hv⟩ := exists_configWord he hr
    rcases modify_cases hw he h2 ha hx with ⟨h0, rfl⟩ | ⟨h1, rfl⟩
    · have hl : s.upc.toNat + 1 ≠ microCount i := by rw [h0, h2]; decide
      exact .inl ⟨⟨executing_advance he hl _, hold, fun _ => hold⟩, rfl⟩
    · rw [hv (ht h1)]
      exact .inr (.inl ⟨rfl, rfl, rfl⟩)
  · exact .inr (.inr ⟨hi, rfl, rfl⟩)
  · refine .inl ⟨⟨he.of_same hsame, ?_, ?_⟩, hword⟩
    · rw [State.reg0F, hword]; exact hold
    · rw [hsame.upc, hsame.t]; exact ht

/-- Settles O53: no move but the operation's own write changes `REG_0F` while it is under way. -/
theorem configOperationUnderEverySchedule : Obligations.ConfigOperationUnderEverySchedule := by
  unfold Obligations.ConfigOperationUnderEverySchedule
  intro i old new s s' hr hu h
  obtain ⟨hw, hm⟩ := step_cases h
  have hu0 : ConfigUnderWay old i (takeInput s).2 := by rw [takeInput_eq]; exact hu
  simpa using hm.of_configUnderWay (by simpa using hw) (by simpa using hr) hu0

/-! ### The operations on `RTC_CS` -/

/-- What `SetInterrupts` makes of the enables it read (43_sync_status_ops.md R180). -/
theorem enabledBy_interruptsWord {c : Cfg} (hw : c.wf = true) (set : Events) (on : Bool)
    (t : Word) : enabledBy c (interruptsWord c set on t)
      = if on then (enabledBy c t).union set else (enabledBy c t).minus set :=
  Events.ext_has fun e => by
    rw [has_enabledBy, interruptsWord_enableBit hw]
    cases on <;> cases he : set.has e <;> simp [he]

/-- `SetInterrupts` and `ClearFlags` are read-modify-writes of `RTC_CS`: the word written has the
enables of the rule on those in `T`, and clears the operation's own flags alone
(43_sync_status_ops.md R180, R183). -/
theorem exists_statusWord {old new : Events} (hw : s.cfg.wf = true) (he : Executing i s)
    (hr : enablesResult old i = some new) :
    microCount i = 2 ∧ ∃ v, access i s = modifyAccess .cs v s.upc.toNat
      ∧ (enabledBy s.cfg s.t = old → enabledBy s.cfg v = new)
      ∧ clearedBy s.cfg v = clearTargets i := by
  obtain ⟨-, -, ha, hb, -, -⟩ := he
  cases i
  case setInterrupts set en =>
    refine ⟨rfl, _, rfl, fun ht => ?_, clearedBy_interruptsWord hw _ _ _⟩
    rw [enabledBy_interruptsWord hw, ht, ha, hb, argOf, Events.ofArg_toArg]
    exact Option.some.inj hr
  case clearFlags set =>
    refine ⟨rfl, _, rfl, fun ht => ?_, ?_⟩
    · rw [enabledBy_clearWord hw, ht]
      exact Option.some.inj hr
    · rw [clearedBy_clearWord hw, ha, argOf, Events.ofArg_toArg]
      rfl
  all_goals exact nomatch hr

/-- What a move can do to an operation on `RTC_CS` under way (20_memory.md R75 b). -/
theorem SystemMove.of_statusUnderWay {old new : Events} (h : SystemMove inp s s')
    (hw : s.cfg.wf = true) (hr : enablesResult old i = some new) (hu : StatusUnderWay old i s) :
    (StatusUnderWay old i s' ∧ ∀ e, s.flg.has e = true → s'.flg.has e = true)
      ∨ (s'.mode = .idle ∧ s'.resp = ⟨0#2, 0#32⟩ ∧ s'.ie = new
        ∧ s'.flg = s.flg.minus (clearTargets i))
      ∨ (inp.move = .hardwareReset ∧ s'.mode = .idle ∧ s'.ie = old ∧ s'.flg = s.flg) := by
  obtain ⟨he, hold, ht⟩ := hu
  rcases h.of_executing he with hx | ⟨hi, rfl⟩ | ⟨hsame, -, hie, hflg⟩
  · obtain ⟨h2, v, ha, hv, hclear⟩ := exists_statusWord hw he hr
    rcases modify_cases hw he h2 ha hx with ⟨h0, rfl⟩ | ⟨h1, rfl⟩
    · have hl : s.upc.toNat + 1 ≠ microCount i := by rw [h0, h2]; decide
      exact .inl ⟨⟨executing_advance he hl _, hold, fun _ => (enabledBy_readCs hw).trans hold⟩,
        fun _ => id⟩
    · exact .inr (.inl ⟨rfl, rfl, hv (ht h1), congrArg s.flg.minus hclear⟩)
  · exact .inr (.inr ⟨hi, rfl, hold, rfl⟩)
  · refine .inl ⟨⟨he.of_same hsame, hie.trans hold, ?_⟩, hflg⟩
    rw [hsame.upc, hsame.t, hsame.cfg]
    exact ht

/-- Settles O54: no move but the operation's own write changes an enable while it is under way, and
that write clears the operation's own flags alone, whatever `RtcCore` raised. -/
theorem statusOperationUnderEverySchedule : Obligations.StatusOperationUnderEverySchedule := by
  unfold Obligations.StatusOperationUnderEverySchedule
  intro i old new s s' hr hu h
  obtain ⟨hw, hm⟩ := step_cases h
  have hu0 : StatusUnderWay old i (takeInput s).2 := by rw [takeInput_eq]; exact hu
  simpa using hm.of_statusUnderWay (by simpa using hw) hr hu0

end Sys2Proof.Machine

/-!
PROOF. Runs under a given schedule as triples: from a state that meets the premise and has the
schedule at the head of its inputs, the run is answered and ends in a state that meets the
conclusion. Triples of parts of a schedule compose, and `WaitForUpdate` as the fence is such a
composition (20_memory.md R73 a, R74; 43_sync_status_ops.md R181). Then the liveness of `Sync` in
infinite runs.
-/

namespace Sys2Proof.Machine

open Sys2Proof

variable {s s' : State} {inp : Input} {P Q R : State → Prop}

/-- A move leaves the schedule. -/
theorem SystemMove.inputs_eq (h : SystemMove inp s s') : s'.inputs = s.inputs := by
  cases h with
  | controller _ h =>
    cases h with
    | passes _ e => rw [e]
    | accepts _ c rest i _ _ e => rw [e, accept]; split <;> rfl
    | illegal _ c rest why _ _ e => rw [e]; rfl
    | micro _ i _ _ m =>
      cases m with
      | reads r h => cases h <;> simp
      | writes r v h => cases h <;> simp
  | sync _ e => rcases syncStep_cases inp.clk s with hs | ⟨p, -, -, hs⟩ <;> simp [e, hs]
  | rtcCore m _ e => rw [e]; rfl
  | readResponse _ e => rw [e]
  | hardwareReset _ e => rw [e]; rfl

/-- A step whose schedule names its input is the move of the agent named, and takes the input. -/
theorem step_cons_cases {rest : List Input} (hin : s.inputs = inp :: rest)
    (h : step s = .next s') : SystemMove inp { s with inputs := rest } s' ∧ s'.inputs = rest := by
  have hm := (step_cases h).2
  rw [takeInput_cons hin] at hm
  exact ⟨hm, hm.inputs_eq⟩

/-- The first step of a run. -/
theorem run_succ {M : Host.Core} {s u : M.State} (h : M.step s = .next u) (n : Nat) :
    M.run (n + 1) s = M.run n u := by
  simp only [Host.Core.run, h]

/-- A run goes on from the state it has reached. -/
theorem run_add {M : Host.Core} {m : Nat} {s u : M.State} (h : M.run m s = .next u) (n : Nat) :
    M.run (m + n) s = M.run n u := by
  induction m generalizing s with
  | zero =>
    obtain rfl := Host.Outcome.next.inj h
    rw [Nat.zero_add]
  | succ m ih =>
    rw [Nat.succ_add]
    cases hs : M.step s with
    | next s1 =>
      rw [run_succ hs] at h ⊢
      exact ih h
    | fault r => simp [Host.Core.run, hs] at h
    | refused r => simp [Host.Core.run, hs] at h

/-- Under the schedule `ins`, whatever comes after it, every state that meets `P` leads to one that
meets `Q`. -/
def Leads (ins : List Input) (P Q : State → Prop) : Prop :=
  ∀ (s : State) (rest : List Input), s.inputs = ins ++ rest → P s →
    ∃ s', Host.Core.run Sys2Proof.core ins.length s = .next s' ∧ s'.inputs = rest ∧ Q s'

theorem Leads.nil : Leads [] P P := fun s _ hin hP => ⟨s, rfl, hin, hP⟩

/-- Triples of two schedules compose. -/
theorem Leads.append {l l' : List Input} (h : Leads l P Q) (h' : Leads l' Q R) :
    Leads (l ++ l') P R := by
  intro s rest hin hP
  obtain ⟨s1, hrun, hin1, hQ⟩ := h s (l' ++ rest) (by rw [hin, List.append_assoc]) hP
  obtain ⟨s2, hrun', hin2, hR⟩ := h' s1 rest hin1 hQ
  exact ⟨s2, by rw [List.length_append, run_add hrun, hrun'], hin2, hR⟩

/-- The predicate does not look at the schedule still to come. -/
def IgnoresSchedule (P : State → Prop) : Prop :=
  ∀ (s : State) (rest : List Input), P s → P { s with inputs := rest }

/-- One step, from states that meet the invariant: it is answered, so what every move does holds. -/
theorem Leads.one (hinv : ∀ s, P s → Inv s) (hins : IgnoresSchedule P)
    (h : ∀ s s', P s → SystemMove inp s s' → Q s') : Leads [inp] P Q := by
  intro s rest hin hP
  obtain ⟨s', hs⟩ := machineNeverStops s (hinv s hP)
  obtain ⟨hm, hin'⟩ := step_cons_cases hin hs
  exact ⟨s', run_succ (M := Sys2Proof.core) hs 0, hin', h _ s' (hins s rest hP) hm⟩

/-- What every move of a schedule keeps, the schedule keeps. -/
theorem Leads.keeps {ins : List Input} (hinv : ∀ s, P s → Inv s)
    (hins : IgnoresSchedule P) (h : ∀ inp ∈ ins, ∀ s s', P s → SystemMove inp s s' → P s') :
    Leads ins P P := by
  induction ins with
  | nil => exact .nil
  | cons inp ins ih =>
    have hone : Leads [inp] P P := .one hinv hins (h inp List.mem_cons_self)
    exact hone.append (ih fun j hj => h j (List.mem_cons_of_mem _ hj))

/-- A triple says how the run under its schedule ends. -/
theorem Leads.runSchedule {ins : List Input} (h : Leads ins P Q) (hP : P { s with inputs := ins }) :
    ∃ s', runSchedule ins s = .next s' ∧ Q s' := by
  obtain ⟨s', hrun, -, hQ⟩ := h { s with inputs := ins } [] (List.append_nil ins).symm hP
  exact ⟨s', hrun, hQ⟩

/-! ### The poll -/

/-- `WaitForUpdate` is under way with the given pending slot and violation mark. -/
def Polling (slot : Option Pending) (b : Bool) (s : State) : Prop :=
  s.cfg.wf = true ∧ Executing .waitForUpdate s ∧ s.pending = slot ∧ s.viol = b

variable {slot : Option Pending} {p : Pending} {b : Bool}

theorem Polling.inv (h : Polling slot b s) : Inv s := ⟨h.1, fun _ => ⟨_, h.2.1⟩⟩

theorem Polling.pending_eq (h : Polling slot b s) : s.pending = slot := h.2.2.1

theorem ignoresSchedule_polling : IgnoresSchedule (Polling slot b) := fun _ _ h => h

/-- A move of another agent, with `Sync` not enabled, changes nothing or is a step of `RtcCore`
(20_memory.md R67, R72). -/
theorem SystemMove.of_sync_disabled (h : SystemMove inp s s') (hc : inp.move ≠ .controller)
    (hr : inp.move ≠ .hardwareReset) (hd : inp.clk = true → s.pending = none) :
    s' = s ∨ ∃ m, inp.move = .rtcCore m ∧ s' = rtcCoreStep m s := by
  cases h with
  | controller hi => exact absurd hi hc
  | hardwareReset hi => exact absurd hi hr
  | rtcCore m hi e => exact .inr ⟨m, hi, e⟩
  | readResponse _ e => exact .inl e
  | sync _ e =>
    rcases syncStep_cases inp.clk s with hs | ⟨p, hclk, hp, -⟩
    · exact .inl (e.trans hs)
    · rw [hd hclk] at hp
      exact nomatch hp

/-- The poll stays under way, slot and mark kept, while `Sync` is not enabled. -/
theorem Polling.other (hP : Polling slot b s) (h : SystemMove inp s s')
    (hc : inp.move ≠ .controller) (hr : inp.move ≠ .hardwareReset)
    (hd : inp.clk = true → slot = none) : Polling slot b s' := by
  obtain ⟨hw, he, hp, hv⟩ := hP
  have hsame := h.sameController hc hr
  rcases h.of_sync_disabled hc hr (fun hclk => hp.trans (hd hclk)) with rfl | ⟨m, -, rfl⟩
  · exact ⟨hw, he, hp, hv⟩
  · exact ⟨hw, he.of_same hsame, hp, hv⟩

/-- The poll stays under way while a write is pending and the clock stands still
(60_exceptions.md R204). -/
theorem Polling.hangs (hP : Polling (some p) b s) (h : SystemMove inp s s')
    (hclk : inp.clk = false) (hr : inp.move ≠ .hardwareReset) : Polling (some p) b s' := by
  by_cases hc : inp.move = .controller
  · obtain ⟨hw, he, hp, hv⟩ := hP
    cases h with
    | controller _ h =>
      have hx := h.of_executing he
      rw [exec_waitForUpdate hw he, poll_stays hw (by simp [hp])] at hx
      obtain rfl := Host.Outcome.next.inj hx
      obtain ⟨hm, hcmd, ha, hb, hpre, -⟩ := he
      exact ⟨hw, ⟨hm, hcmd, ha, hb, hpre, Nat.zero_lt_one⟩, hp, hv⟩
    | sync hi | rtcCore _ hi | readResponse hi | hardwareReset hi =>
      exact absurd (hi.symm.trans hc) nofun
  · exact hP.other h hc hr (by simp [hclk])

/-- After the commit: the poll is under way with an empty slot, and the register of the write `p`
holds the written value. -/
def Fenced (p : Pending) (b : Bool) (s : State) : Prop :=
  Polling none b s ∧ committed s p.reg = p.val

theorem Fenced.inv (h : Fenced p b s) : Inv s := h.1.inv

theorem ignoresSchedule_fenced : IgnoresSchedule (Fenced p b) := fun _ _ h => h

/-- The enabled `Sync` commits the write the poll waits for (20_memory.md R67). -/
theorem Polling.commits (hP : Polling (some p) b s) (h : SystemMove ⟨.sync, true⟩ s s') :
    Fenced p b s' := by
  obtain ⟨hw, he, hp, hv⟩ := hP
  have hsame := h.sameController nofun nofun
  cases h with
  | sync _ e =>
    have hcommit : s' = { setCommitted p.reg p.val s with pending := none } := by
      simp [e, syncStep, hp]
    subst hcommit
    exact ⟨⟨by rwa [hsame.cfg], he.of_same hsame, rfl, (setCommitted_viol ..).trans hv⟩,
      (committed_setCommitted ..).trans (if_pos rfl)⟩
  | controller hi | rtcCore _ hi | readResponse hi | hardwareReset hi => exact nomatch hi

/-- With the slot empty only `RtcCore` changes a committed value, and only the counter
(20_memory.md R72). -/
theorem Fenced.other (hF : Fenced p b s) (h : SystemMove inp s s') (hc : inp.move ≠ .controller)
    (hr : inp.move ≠ .hardwareReset) (hq : p.reg = .cnt → ∀ m, inp.move ≠ .rtcCore m) :
    Fenced p b s' := by
  obtain ⟨hP, hval⟩ := hF
  refine ⟨hP.other h hc hr fun _ => rfl, ?_⟩
  rcases h.of_sync_disabled hc hr (fun _ => hP.pending_eq) with rfl | ⟨m, hm, rfl⟩
  · exact hval
  · obtain ⟨x, v⟩ := p
    cases x with
    | cnt => exact absurd hm (hq rfl m)
    | alrm | prl => exact hval

/-- The poll has responded `(OK, 0)`, nothing is pending, the mark is as given, and the register of
the write `p` holds the written value. -/
def FenceReturned (p : Pending) (b : Bool) (s : State) : Prop :=
  s.mode = .idle ∧ s.resp = ⟨0#2, 0#32⟩ ∧ s.pending = none
    ∧ committed s p.reg = p.val ∧ s.viol = b

/-- The end of the poll leaves the committed values. -/
theorem committed_poll (x : Synced) (d v : Word) (s : State) :
    committed (respond d (advance (setT v s))) x = committed s x := by
  cases x <;> rfl

/-- With the slot empty the poll's next turn responds (43_sync_status_ops.md R181). -/
theorem Fenced.returns {clk : Bool} (hF : Fenced p b s)
    (h : SystemMove ⟨.controller, clk⟩ s s') : FenceReturned p b s' := by
  obtain ⟨⟨hw, he, hp, hv⟩, hval⟩ := hF
  cases h with
  | controller _ h =>
    have hx := h.of_executing he
    rw [exec_waitForUpdate hw he, poll_completes hw hp] at hx
    obtain rfl := Host.Outcome.next.inj hx
    exact ⟨rfl, rfl, hp, (committed_poll ..).trans hval, hv⟩
  | sync hi | rtcCore _ hi | readResponse hi | hardwareReset hi => exact nomatch hi

/-- Settles O57: the poll hangs until the commit, waits behind it, and returns. -/
theorem pollReturnsAfterCommit : Obligations.PollReturnsAfterCommit := by
  unfold Obligations.PollReturnsAfterCommit
  intro before after clk s p hw he hp hclk hreset hreset' hcontroller hquiet
  have hbefore : Leads before (Polling (some p) s.viol) (Polling (some p) s.viol) :=
    .keeps (fun _ => Polling.inv) ignoresSchedule_polling fun inp hin _ _ hP h =>
      hP.hangs h (hclk inp hin) (hreset inp hin)
  have hsync : Leads [⟨.sync, true⟩] (Polling (some p) s.viol) (Fenced p s.viol) :=
    .one (fun _ => Polling.inv) ignoresSchedule_polling fun _ _ => Polling.commits
  have hafter : Leads after (Fenced p s.viol) (Fenced p s.viol) :=
    .keeps (fun _ => Fenced.inv) ignoresSchedule_fenced fun inp hin _ _ hF h =>
      hF.other h (hcontroller inp hin) (hreset' inp hin) fun hcnt => hquiet hcnt inp hin
  have hturn : Leads [⟨.controller, clk⟩] (Fenced p s.viol) (FenceReturned p s.viol) :=
    .one (fun _ => Fenced.inv) ignoresSchedule_fenced fun _ _ => Fenced.returns
  exact (((hbefore.append hsync).append hafter).append hturn).runSchedule ⟨hw, he, hp, rfl⟩

/-! ### Fair runs (20_memory.md R67) -/

/-- Settles O58: a slot that stayed full from step `n` on would enable `Sync` from the clock's start
on, and its turn, which fairness brings, empties the slot. -/
theorem pendingWriteClears : Obligations.PendingWriteClears := by
  unfold Obligations.PendingWriteClears
  intro σ r n hrun hsync ⟨k, hclk⟩ hp
  by_contra hnone
  have hfull (m : Nat) (hm : n < m) : (r m).pending ≠ none := fun h => hnone ⟨m, hm, h⟩
  have hen (m : Nat) (hm : n + 1 + k ≤ m) : SyncEnabledAt σ r m :=
    ⟨hfull m (by omega), hclk m (by omega)⟩
  obtain ⟨m, hm, hmove⟩ := hsync _ hen
  exact hfull (m + 1) (by omega) (hrun.sync_clears (hen m hm) hmove)

end Sys2Proof.Machine

/-!
PROOF. The register bus, register by register (20_memory.md R61 to R71), the bits of a read of
`RTC_CS`, raw accesses by byte address, and the steps of the two hardware agents (R67, R72).
-/

namespace Sys2Proof.Machine

open Sys2Proof

variable {s : State}

/-- A read by index is the read of the register there (20_memory.md R63). -/
theorem regRead_of {i : Nat} {r : Reg} (h : regAt s.cfg i = some r) :
    regRead i s = .next (readReg r s) := by
  simp [regRead, h]

/-! ### Plain words and the divider -/

/-- Settles O28: the register at the index is that plain word. -/
theorem plainWordAccess : Obligations.PlainWordAccess := by
  unfold Obligations.PlainWordAccess
  intro s i v h
  refine ⟨regWrite_of (regAt_plain s.cfg h) v, ?_, fun j hj hne => ?_⟩
  · rw [regRead_of (regAt_plain _ h)]
    simp [readReg]
  · rw [regRead_of (regAt_plain _ hj)]
    simp [readReg, Ne.symm hne]

/-- Settles O31: neither access of the divider touches the state. -/
theorem dividerIsReadOnly : Obligations.DividerIsReadOnly := by
  unfold Obligations.DividerIsReadOnly
  intro s v hw
  exact ⟨regWrite_of (regAt_div hw) v, regRead_of (regAt_div hw)⟩

/-! ### Synchronized registers -/

/-- Settles O29: the write is accepted into the empty slot and is a violation of a full one. -/
theorem synchronizedWrite : Obligations.SynchronizedWrite := by
  unfold Obligations.SynchronizedWrite
  intro s x v hw
  rw [regWrite_of (regAt_synced hw x) v, writeReg]
  refine ⟨fun hp => ?_, fun hp => ?_⟩
  · rw [writeSynced_none hp]
  · rw [writeSynced_some hp]
    exact ⟨_, _, _, _, _, rfl⟩

/-- With no write to it pending a register reads its committed value (20_memory.md R68). -/
theorem readSynced_committed {x : Synced} (h : ∀ v, s.pending ≠ some ⟨x, v⟩) :
    readSynced x s = (committed s x, s) := by
  unfold readSynced
  split
  case h_1 => rfl
  case h_2 p hp =>
    refine if_neg ?_
    rintro rfl
    exact h p.val hp

/-- With a write to it pending `PENDING_READ` says what a register reads (20_memory.md R68). -/
theorem readSynced_pending {x : Synced} {v : Word} (h : s.pending = some ⟨x, v⟩) :
    (s.cfg.pendingRead = .old → readSynced x s = (committed s x, s))
      ∧ (s.cfg.pendingRead = .new → readSynced x s = (v, s))
      ∧ (s.cfg.pendingRead = .either → readSynced x s
        = (if Config.readsPending s.fresh then v else committed s x, useDraw s)) := by
  refine ⟨fun hr => ?_, fun hr => ?_, fun hr => ?_⟩ <;> simp [readSynced, h, hr]

/-- Settles O30: by the slot, and with a write to the register pending by `PENDING_READ`. -/
theorem synchronizedRead : Obligations.SynchronizedRead := by
  unfold Obligations.SynchronizedRead
  intro s x hw
  rw [regRead_of (regAt_synced hw x), readReg]
  refine ⟨fun h => ?_, fun v h hr => ?_, fun v h hr => ?_, fun v h hr => ?_⟩
  · rw [readSynced_committed h]
  · obtain ⟨hold, -, -⟩ := readSynced_pending h
    rw [hold hr]
  · obtain ⟨-, hnew, -⟩ := readSynced_pending h
    rw [hnew hr]
  · obtain ⟨-, -, heither⟩ := readSynced_pending h
    refine ⟨_, _, ?_, congrArg _ (heither hr)⟩
    cases Config.readsPending s.fresh
    · exact .inl rfl
    · exact .inr rfl

/-! ### The status word -/

/-- A read of `RTC_CS` has 0 at every bit without a name (20_memory.md R70). -/
theorem readCs_reserved (hw : s.cfg.wf = true) {p : Nat} (hf : ∀ e, p ≠ s.cfg.flagBit e)
    (he : ∀ e, p ≠ s.cfg.enableBit e) (hwec : p ≠ s.cfg.wecBit) :
    (readCs s).getLsbD p = false := by
  have hflag : (s.cfg.flagMask s.flg).getLsbD p = false := by
    rw [← Bool.not_eq_true, flagMask_iff hw]
    exact fun ⟨e, _, h⟩ => hf e h
  have henable : (s.cfg.enableMask s.ie).getLsbD p = false := by
    rw [← Bool.not_eq_true, enableMask_iff hw]
    exact fun ⟨e, _, h⟩ => he e h
  have hmask : (if wecValue s then s.cfg.wecMask else 0#32).getLsbD p = false := by
    split
    · simp [Cfg.wecMask, hwec]
    · exact BitVec.getLsbD_zero
  simp only [readCs, BitVec.getLsbD_or, hflag, henable, hmask, Bool.or_false]

/-- Settles O32: the named bits by the masks that hold them, the others by none. -/
theorem statusWordRead : Obligations.StatusWordRead := by
  unfold Obligations.StatusWordRead
  intro s hw
  refine ⟨readCs s, regRead_of (regAt_cs hw), readCs_flagBit hw .ow, readCs_flagBit hw .alr,
    readCs_flagBit hw .sec, readCs_enableBit hw .ow, readCs_enableBit hw .alr,
    readCs_enableBit hw .sec, fun hp => ?_, fun hp => ?_,
    fun p hfo hfa hfs hio hia his hwec => ?_⟩
  · simp [readCs_wecBit hw, wecValue, wecAsserted, hp]
  · simp [readCs_wecBit hw, wecValue, wecAsserted, hp]
  · refine readCs_reserved hw (fun e => ?_) (fun e => ?_) hwec
    · cases e
      · exact hfo
      · exact hfa
      · exact hfs
    · cases e
      · exact hio
      · exact hia
      · exact his

/-- A flag falls where the written word has a 1, and stays where it has a 0 (20_memory.md R71). -/
theorem minus_clearedBy (f : Events) (c : Cfg) (v : Word) :
    f.minus (clearedBy c v) = ⟨if v.getLsbD c.fOw then false else f.ow,
      if v.getLsbD c.fAlr then false else f.alr, if v.getLsbD c.fSec then false else f.sec⟩ := by
  have hclear (a b : Bool) : (a && !b) = if b then false else a := by cases a <;> cases b <;> rfl
  simp only [Events.minus, clearedBy, hclear]

/-- Settles O33: the flags are those the word does not clear, the enables those it gives. -/
theorem statusWordWrite : Obligations.StatusWordWrite := by
  unfold Obligations.StatusWordWrite
  intro s v hw
  rw [regWrite_of (regAt_cs hw), ← minus_clearedBy]
  rfl

/-! ### Accesses by byte address -/

/-- The byte addresses of the block do not wrap (00_scope.md R7 a, 20_memory.md R60). -/
theorem byteAddress_toNat {c : Cfg} (hw : c.wf = true) {i : Nat} (hi : i ≤ 0x14) :
    (byteAddress c i).toNat = c.base.toNat + 4 * i := by
  have := Cfg.wf_base hw
  rw [byteAddress, BitVec.toNat_add, BitVec.toNat_ofNat]
  omega

/-- The accesses with a word index: four bytes at the address of a word of the block
(20_memory.md R60, R61). -/
theorem busIndex_eq_some_iff {c : Cfg} (hw : c.wf = true) {addr : BitVec 32} {n i : Nat} :
    busIndex c addr n = some i ↔ n = 4 ∧ i ≤ 0x14 ∧ addr = byteAddress c i := by
  have hbase := Cfg.wf_base hw
  unfold busIndex
  split
  case isTrue h =>
    obtain ⟨hn, halign, hle, hi⟩ := h
    rw [Option.some.injEq]
    constructor
    · rintro rfl
      refine ⟨hn, hi, BitVec.eq_of_toNat_eq ?_⟩
      rw [byteAddress_toNat hw hi]
      omega
    · rintro ⟨-, hle', rfl⟩
      rw [byteAddress_toNat hw hle']
      omega
  case isFalse h =>
    refine iff_of_false nofun ?_
    rintro ⟨hn, hi, rfl⟩
    rw [byteAddress_toNat hw hi] at h
    omega

/-- Settles O34: an access is answered exactly when it has a word index. -/
theorem rawBusAccess : Obligations.RawBusAccess := by
  unfold Obligations.RawBusAccess
  intro s v hw
  refine ⟨fun i hi => ?_, fun addr n h => ?_⟩
  · have hidx : busIndex s.cfg (s.cfg.base + BitVec.ofNat 32 (4 * i)) 4 = some i :=
      (busIndex_eq_some_iff hw).2 ⟨rfl, hi, rfl⟩
    simp [memRead, memWrite, hidx]
  · have hidx : busIndex s.cfg addr n = none := by
      rw [Option.eq_none_iff_forall_ne_some]
      intro i hi
      obtain ⟨hn, hle, haddr⟩ := (busIndex_eq_some_iff hw).1 hi
      exact h.elim (fun h => h hn) fun h => h i hle haddr
    simp [memRead, memWrite, hidx]

/-! ### The hardware agents -/

/-- A commit writes the register of the entry and leaves the other two (20_memory.md R67). -/
theorem setCommitted_eq (x : Synced) (v : Word) (s : State) :
    setCommitted x v s = { s with
      cnt := if x = .cnt then v else s.cnt
      alrm := if x = .alrm then v else s.alrm
      prl := if x = .prl then v else s.prl } := by
  cases x <;> rfl

/-- Settles O35: `Sync` commits when it is enabled, and its turn passes otherwise. -/
theorem syncCommits : Obligations.SyncCommits := by
  unfold Obligations.SyncCommits
  intro s clk rest hw hin
  have hstep : step s = .next (syncStep clk { s with inputs := rest }) := step_cons hw hin
  refine ⟨fun x v hp hclk => ?_, fun hd => ?_⟩
  · rw [hstep, syncStep]
    simp [hp, hclk, setCommitted_eq]
  · rw [hstep, syncStep]
    rcases hd with hp | hclk
    · simp [hp]
    · subst hclk
      cases hp : s.pending <;> simp

/-- Settles O36: the next state is that of `rtcCoreStep`, read field by field. -/
theorem rtcCoreChangesOnly : Obligations.RtcCoreChangesOnly := by
  unfold Obligations.RtcCoreChangesOnly
  intro s m clk rest hw hin
  refine ⟨rtcCoreStep m { s with inputs := rest }, step_cons hw hin, rfl, ?_⟩
  refine ⟨fun v h => ?_, fun h => ?_, fun v h => ?_, fun h => ?_, fun e => by simp⟩ <;> simp [h]

end Sys2Proof.Machine

/-!
PROOF. The statements of 30_encoding.md: the round trips between words and operations, the rows of
the opcode map against the decoder, and the written-out words and lines.
-/

namespace Sys2Proof

/-! ### Round trips (R100 to R107) -/

/-- Settles O2: the word of an operation has its fields, and the opcode map reads them back. -/
theorem decodeOfEncode : Obligations.DecodeOfEncode := by
  unfold Obligations.DecodeOfEncode
  exact decode_encode

/-- Settles O3: the fields of a legal word are those of its operation, and a word is its fields. -/
theorem encodeOfDecode : Obligations.EncodeOfDecode := by
  unfold Obligations.EncodeOfDecode
  exact fun _ _ => encode_of_decode

/-! ### The rows of the opcode map (R106) -/

/-- The rows are those of the operations. -/
theorem mem_opcodeRows {r : OpcodeRow} : r ∈ opcodeRows ↔ ∃ i, tableRow i = r := by
  constructor
  · intro h
    obtain ⟨i, -, hi⟩ := List.mem_map.1 h
    exact ⟨i, hi⟩
  · rintro ⟨i, rfl⟩
    cases i <;> simp [opcodeRows, tableRow]

/-- The word of an operation selects the operation's row. -/
theorem selects_encode (i : Instr) : (tableRow i).selects (encode i) = true := by
  rw [OpcodeRow.selects, beq_iff_eq]
  cases i with
  | reset => exact Laws.SelectsRow.reset
  | setClockSource arg => exact Laws.SelectsRow.setClockSource arg
  | setEnabled en => exact Laws.SelectsRow.setEnabled en
  | setCalibration arg => exact Laws.SelectsRow.setCalibration arg
  | setReset en => exact Laws.SelectsRow.setReset en
  | setInterrupts set en => exact Laws.SelectsRow.setInterrupts set en
  | getCounter => exact Laws.SelectsRow.getCounter
  | setCounter arg => exact Laws.SelectsRow.setCounter arg
  | setAlarm arg => exact Laws.SelectsRow.setAlarm arg
  | getDivider => exact Laws.SelectsRow.getDivider
  | setPrescaler arg => exact Laws.SelectsRow.setPrescaler arg
  | waitForUpdate => exact Laws.SelectsRow.waitForUpdate
  | getFlag flag => exact Laws.SelectsRow.getFlag flag
  | clearFlags set => exact Laws.SelectsRow.clearFlags set

/-- The `op` a row asks for is that of its operation. -/
theorem opField_tableRow_value (i : Instr) : opField (tableRow i).value = opcodeOf i := by
  cases i <;> dsimp only [tableRow] <;> rfl

/-- Every row compares `op` and `rsv` whole, asks for `rsv` 0, and asks for 0 in what it compares of
`en` and `arg`. -/
theorem fields_of_mem_opcodeRows : ∀ r ∈ opcodeRows,
    opField r.mask = BitVec.allOnes 4 ∧ rsvField r.mask = BitVec.allOnes 3
      ∧ rsvField r.value = 0#3 ∧ enField r.value = false ∧ argField r.value = 0#32 := by
  decide

/-- A word without a bit under a mask of all bits from `n` up has only its `n` low bits. -/
theorem shiftRight_eq_zero_of_and {w n : Nat} {v : BitVec w}
    (h : v &&& (BitVec.allOnes w <<< n) = 0#w) : v >>> n = 0#w := by
  apply BitVec.eq_of_getLsbD_eq
  intro j hj
  have hbit := congrArg (fun u => u.getLsbD (n + j)) h
  by_cases hlt : n + j < w
  · simpa [hlt, hj] using hbit
  · simp [BitVec.getLsbD_of_ge v _ (Nat.le_of_not_lt hlt)]

/-- The fields of a word that selects a row: `op` is the row's, `rsv` is 0, and so is what the row's
mask takes of `en` and of `arg`. -/
theorem fields_of_selects {r : OpcodeRow} {c : CommandWord} (hr : r ∈ opcodeRows)
    (h : r.selects c = true) :
    opField c = opField r.value ∧ rsvField c = 0#3
      ∧ (enField r.mask = true → enField c = false)
      ∧ ∀ n : Nat, argField r.mask = BitVec.allOnes 32 <<< n → argField c >>> n = 0#32 := by
  obtain ⟨hmop, hmrsv, hvrsv, hven, hvarg⟩ := fields_of_mem_opcodeRows r hr
  have hc : c &&& r.mask = r.value := beq_iff_eq.1 h
  refine ⟨?_, ?_, fun hm => ?_, fun n hm => shiftRight_eq_zero_of_and ?_⟩
  · rw [← hc, opField, opField, BitVec.extractLsb'_and, ← opField, ← opField, hmop,
      BitVec.and_allOnes]
  · rw [← hvrsv, ← hc, rsvField, rsvField, BitVec.extractLsb'_and, ← rsvField, ← rsvField, hmrsv,
      BitVec.and_allOnes]
  · rw [← hven, ← hc, enField, enField, BitVec.getLsbD_and, ← enField, ← enField, hm, Bool.and_true]
  · rw [← hm, ← hvarg, ← hc, argField, argField, argField, BitVec.extractLsb'_and]

/-- A word that selects a row decodes to an operation: the row fixes every bit the decoder tests. -/
theorem exists_decode_of_selects {i : Instr} {c : CommandWord}
    (h : (tableRow i).selects c = true) : ∃ j, decode c = .command j := by
  obtain ⟨hop, hrsv, hen, harg⟩ := fields_of_selects (mem_opcodeRows.2 ⟨i, rfl⟩) h
  have hzero (hm : argField (tableRow i).mask = BitVec.allOnes 32) : argField c = 0#32 := by
    simpa using harg 0 (hm.trans (by decide))
  rw [decode, if_pos hrsv, hop, opField_tableRow_value]
  cases i <;> dsimp only [tableRow] at hen harg hzero
  case reset | getCounter | getDivider | waitForUpdate =>
    rw [hen rfl, hzero rfl]
    exact ⟨_, rfl⟩
  case setClockSource | setCalibration | setCounter | setAlarm | setPrescaler =>
    rw [hen rfl]
    exact ⟨_, rfl⟩
  case setEnabled | setReset =>
    rw [hzero rfl]
    exact ⟨_, rfl⟩
  case setInterrupts => exact ⟨_, if_pos (harg 3 rfl)⟩
  case getFlag =>
    rw [hen rfl]
    exact ⟨_, if_pos (harg 2 rfl)⟩
  case clearFlags =>
    rw [hen rfl]
    exact ⟨_, if_pos (harg 3 rfl)⟩

/-- No two rows ask for one `op`. -/
theorem opcodeRows_op_inj {r q : OpcodeRow} (hr : r ∈ opcodeRows) (hq : q ∈ opcodeRows)
    (h : opField r.value = opField q.value) : r = q :=
  List.inj_on_of_nodup_map (f := fun r : OpcodeRow => opField r.value) (by decide) hr hq h

/-- Settles O4: a legal word is the word of an operation, which selects its row, and a row fixes all
the decoder tests; two selected rows have the word's `op`. -/
theorem legalWordsSelectOneRow : Obligations.LegalWordsSelectOneRow := by
  unfold Obligations.LegalWordsSelectOneRow
  refine fun c => ⟨⟨?_, ?_⟩, fun r hr q hq hrc hqc => ?_⟩
  · rintro ⟨i, hi⟩
    obtain rfl := encode_of_decode hi
    exact ⟨tableRow i, mem_opcodeRows.2 ⟨i, rfl⟩, selects_encode i⟩
  · rintro ⟨r, hr, hrc⟩
    obtain ⟨i, rfl⟩ := mem_opcodeRows.1 hr
    exact exists_decode_of_selects hrc
  · exact opcodeRows_op_inj hr hq
      ((fields_of_selects hr hrc).1.symm.trans (fields_of_selects hq hqc).1)

/-! ### Words and lines written out (R106, R107, R109) -/

/-- Settles O1: the decoder, run on each word. -/
theorem sampleWordsDecode : Obligations.SampleWordsDecode := by
  unfold Obligations.SampleWordsDecode
  decide

/-- Settles O5: the assembler, run on each line. -/
theorem assemblerExamples : Obligations.AssemblerExamples := by
  unfold Obligations.AssemblerExamples
  decide

end Sys2Proof

/-!
PROOF. `Reset` (40_bulk_reset.md R130, R131): the access of each micro-step by its number, what a
write of 0 leaves of each register, and the operation under every schedule: how far the plain words,
the enables and the control word have come at each micro-step.
-/

namespace Sys2Proof.Machine

open Sys2Proof

variable {s s' : State} {a : Access} {inp : Input} {old : Word}

/-! ### A write of 0 -/

/-- A 0 written to `RTC_CS` clears no flag and every enable (20_memory.md R71). -/
theorem writeCs_zero (s : State) : writeCs 0#32 s = { s with ie := ⟨false, false, false⟩ } := by
  have hflg : s.flg.minus (clearedBy s.cfg 0#32) = s.flg := Events.ext_has fun e => by simp
  rw [writeCs, hflg]
  simp [enabledBy]

@[simp] theorem writeSynced_w (x : Synced) (v : Word) (s : State) :
    (writeSynced x v s).w = s.w := by
  unfold writeSynced; split <;> rfl
@[simp] theorem writeSynced_flg (x : Synced) (v : Word) (s : State) :
    (writeSynced x v s).flg = s.flg := by
  unfold writeSynced; split <;> rfl
@[simp] theorem writeSynced_ie (x : Synced) (v : Word) (s : State) :
    (writeSynced x v s).ie = s.ie := by
  unfold writeSynced; split <;> rfl

/-- No write of 0 changes an event flag (20_memory.md R71). -/
theorem writeReg_zero_flg (r : Reg) (s : State) : (writeReg r 0#32 s).flg = s.flg := by
  cases r with
  | plain k => rfl
  | synced x => exact writeSynced_flg x _ s
  | div => rfl
  | cs => rw [writeReg, writeCs_zero]

/-- The enables are 0 after a write of 0 to `RTC_CS`, and stay 0 under every other write of 0. -/
theorem writeReg_zero_ie {r : Reg} (h : r = .cs ∨ s.ie = ⟨false, false, false⟩) :
    (writeReg r 0#32 s).ie = ⟨false, false, false⟩ := by
  cases r with
  | plain k => exact h.resolve_left nofun
  | synced x => exact (writeSynced_ie x _ s).trans (h.resolve_left nofun)
  | div => exact h.resolve_left nofun
  | cs => rw [writeReg, writeCs_zero]

/-- No index from 0x10 on is that of a plain word (10_state.md R20). -/
theorem regAt_ne_plain {c : Cfg} {i : Nat} (h : 0x10 ≤ i) (k : Fin 16) :
    regAt c i ≠ some (.plain k) := by
  rw [regAt, dif_neg (by omega)]
  split_ifs <;> simp

/-- A write at an index from 0x10 on leaves the plain words. -/
theorem writeReg_rtc_w {c : Cfg} {i : Nat} {r : Reg} (h : 0x10 ≤ i) (hr : regAt c i = some r)
    (v : Word) (s : State) : (writeReg r v s).w = s.w := by
  cases r with
  | plain k => exact absurd hr (regAt_ne_plain h k)
  | synced x => exact writeSynced_w x v s
  | div => rfl
  | cs => rfl

/-! ### The access of each micro-step -/

theorem resetAccess_plain {c : Cfg} {t : Word} {n : Nat} (h : n < 14) :
    resetAccess c t n = some (.write (.plain ⟨n, by omega⟩) 0#32) := by
  unfold resetAccess
  rw [if_pos h, regAt_plain c (by omega)]
  rfl

theorem resetAccess_rtc {c : Cfg} {t : Word} {n : Nat} {r : Reg} (h14 : 14 ≤ n) (h19 : n < 19)
    (hr : regAt c (0x10 + (n - 14)) = some r) :
    resetAccess c t n = some (.write r 0#32) := by
  unfold resetAccess
  rw [if_neg (by omega), if_pos h19, hr]
  rfl

/-- `Reset` before its last micro-step makes its access and goes on. -/
theorem exec_reset_goesOn (hw : s.cfg.wf = true) (hm : s.mode = .busy) (hn : s.upc.toNat < 23)
    (ha : access .reset s = some a) : exec .reset s = .next (advance (a.perform s)) := by
  rw [exec_busy hw hm, ha, answer,
    finish_goesOn (by nofun) (by rw [perform_upc, microCount]; omega)]

/-- The micro-step of `Reset` numbered `n`, the last aside. -/
theorem exec_reset_at {n : Nat} (hw : s.cfg.wf = true) (hm : s.mode = .busy)
    (hu : s.upc = BitVec.ofNat 5 n) (hn : n < 23) (ha : resetAccess s.cfg s.t n = some a) :
    exec .reset s = .next { a.perform s with upc := BitVec.ofNat 5 n + 1#5 } := by
  have hupc : s.upc.toNat = n := by rw [hu, BitVec.toNat_ofNat]; omega
  rw [exec_reset_goesOn hw hm (by omega) (by rw [access, hupc, ha]), advance, perform_upc, hu]

/-- The last micro-step of `Reset` writes `REG_0F` and responds. -/
theorem exec_reset_last (hw : s.cfg.wf = true) (hm : s.mode = .busy) (hu : s.upc = 23#5) :
    exec .reset s = .next (respond 0#32 (advance (setPlain 15 s.cfg.resetCfg s))) := by
  rw [exec_busy hw hm, access, hu]
  refine congrArg _ (finish_last (i := .reset) (by nofun) ?_)
  rw [perform_upc, hu]
  rfl

/-- Settles O6: each micro-step makes the access of its number; at 0x10 to 0x14 that is a write of 0
to the register there. -/
theorem resetOperation : Obligations.ResetOperation := by
  unfold Obligations.ResetOperation
  refine ⟨by decide, fun s hw => ⟨fun hm => ⟨false, exec_idle hw hm⟩, fun hm =>
    ⟨fun n h hu => ?_, fun n h14 h19 hu => ?_, fun hu => ?_, fun hu => ?_, fun hu => ?_,
      fun hu => ?_, fun hu => ?_⟩⟩⟩
  case refine_1 =>
    rw [hu]
    exact exec_reset_at hw hm hu (by omega) (resetAccess_plain h)
  case refine_2 =>
    have hzero {r : Reg} (hr : regAt s.cfg (0x10 + (n - 14)) = some r) :
        exec .reset s = .next { writeReg r 0#32 s with upc := s.upc + 1#5 } := by
      rw [hu]
      exact exec_reset_at hw hm hu (by omega) (resetAccess_rtc h14 h19 hr)
    refine ⟨fun x hx => ?_, fun hd => ?_, fun hc => ?_⟩
    · have hr : regAt s.cfg (0x10 + (n - 14)) = some (.synced x) := hx ▸ regAt_synced hw x
      refine ⟨fun hp => ?_, fun hp => ?_⟩
      · rw [hzero hr, writeReg, writeSynced_none hp]
      · rw [hzero hr, writeReg, writeSynced_some hp]
        exact ⟨_, _, _, _, _, rfl⟩
    · exact hzero (hd ▸ regAt_div hw)
    · rw [hzero (hc ▸ regAt_cs hw), writeReg, writeCs_zero]
  case refine_7 => exact ⟨_, _, exec_reset_last hw hm hu⟩
  all_goals exact exec_reset_at hw hm hu (by decide) rfl

/-! ### `Reset` under every schedule -/

/-- What the micro-step of `Reset` numbered `upc` accesses (40_bulk_reset.md R130). -/
inductive ResetMove (s : State) : Access → Prop where
  | zeroPlain (k : Fin 14) (hu : s.upc.toNat = k.val) :
      ResetMove s (.write (.plain (k.castLE (by decide))) 0#32)
  | zeroRtc (r : Reg) (h14 : 14 ≤ s.upc.toNat) (h19 : s.upc.toNat < 19)
      (hr : regAt s.cfg (0x10 + (s.upc.toNat - 14)) = some r) : ResetMove s (.write r 0#32)
  | readControl (hu : s.upc.toNat = 19 ∨ s.upc.toNat = 21) : ResetMove s (.read (.plain 14))
  | domainOn (hu : s.upc.toNat = 20) :
      ResetMove s (.write (.plain 14) (s.t ||| s.cfg.domainOn))
  | domainOff (hu : s.upc.toNat = 22) :
      ResetMove s (.write (.plain 14) (s.t &&& s.cfg.domainOffKeep))

/-- Before its last micro-step `Reset` makes one of these accesses. -/
theorem exists_resetMove (hw : s.cfg.wf = true) (hn : s.upc.toNat < 23) :
    ∃ a, access .reset s = some a ∧ ResetMove s a := by
  by_cases h14 : s.upc.toNat < 14
  · exact ⟨_, resetAccess_plain h14, .zeroPlain ⟨_, h14⟩ rfl⟩
  by_cases h19 : s.upc.toNat < 19
  · obtain ⟨r, hr⟩ := Option.isSome_iff_exists.1
      ((regAt_isSome_iff hw (0x10 + (s.upc.toNat - 14))).2 (by omega))
    exact ⟨_, resetAccess_rtc (by omega) h19 hr, .zeroRtc r (by omega) h19 hr⟩
  rw [access]
  obtain hu | hu | hu | hu :
    s.upc.toNat = 19 ∨ s.upc.toNat = 20 ∨ s.upc.toNat = 21 ∨ s.upc.toNat = 22 := by omega
  · exact ⟨_, by rw [hu]; rfl, .readControl (.inl hu)⟩
  · exact ⟨_, by rw [hu]; rfl, .domainOn hu⟩
  · exact ⟨_, by rw [hu]; rfl, .readControl (.inr hu)⟩
  · exact ⟨_, by rw [hu]; rfl, .domainOff hu⟩

/-- A micro-step of `Reset` under way is its last, or makes one of these accesses and goes on. -/
theorem exec_reset_cases (hw : s.cfg.wf = true) (he : Executing .reset s)
    (h : exec .reset s = .next s') :
    (s.upc.toNat = 23 ∧ s' = respond 0#32 (advance (setPlain 15 s.cfg.resetCfg s)))
      ∨ ∃ a, s.upc.toNat < 23 ∧ ResetMove s a ∧ s' = advance (a.perform s) := by
  by_cases hn : s.upc.toNat < 23
  · obtain ⟨a, ha, hmove⟩ := exists_resetMove hw hn
    rw [exec_reset_goesOn hw he.busy hn ha] at h
    exact .inr ⟨a, hn, hmove, (Host.Outcome.next.inj h).symm⟩
  · have hu : s.upc.toNat = 23 := by have : s.upc.toNat < 24 := he.upc_lt; omega
    rw [exec_reset_last hw he.busy (BitVec.eq_of_toNat_eq hu)] at h
    exact .inl ⟨hu, (Host.Outcome.next.inj h).symm⟩

/-- The plain words below `n` are zero (40_bulk_reset.md R131 a). -/
def ZeroedBelow (n : Nat) (s : State) : Prop := ∀ k : Fin 14, k.val < n → s.w[k.val] = 0#32

/-- The enables are zero once the write of `RTC_CS` is made before micro-step `n`
(40_bulk_reset.md R131 e). -/
def EnablesAt (n : Nat) (s : State) : Prop := s.cfg.idxCs < n + 2 → s.ie = ⟨false, false, false⟩

/-- `REG_0E` and `T` before micro-step `n`, from the control word `old` (40_bulk_reset.md R131 f). -/
def ControlAt (old : Word) (n : Nat) (s : State) : Prop :=
  (n ≤ 20 → s.reg0E = old)
    ∧ (n = 20 → s.t = old)
    ∧ (n = 21 ∨ n = 22 → s.reg0E = old ||| s.cfg.domainOn)
    ∧ (n = 22 → s.t = old ||| s.cfg.domainOn)
    ∧ (n = 23 → s.reg0E = (old ||| s.cfg.domainOn) &&& s.cfg.domainOffKeep)

/-- `Reset` under way, part by part. -/
theorem resetUnderWay_iff : ResetUnderWay old s ↔ Executing .reset s
    ∧ ZeroedBelow s.upc.toNat s ∧ EnablesAt s.upc.toNat s ∧ ControlAt old s.upc.toNat s := Iff.rfl

/-- Acceptance puts `Reset` under way from the control word it finds. -/
theorem resetUnderWay_accept (hw : s.cfg.wf = true) :
    ResetUnderWay s.reg0E (accept .reset s) := by
  have := Cfg.wf_rtc hw
  rw [accept_of_precond rfl]
  exact ⟨executing_latch rfl, fun _ => nofun, fun h => by simp at h; omega, fun _ => rfl,
    nofun, nofun, nofun, nofun⟩

/-- No access of `Reset` changes an event flag (40_bulk_reset.md R131 e). -/
theorem ResetMove.flg (h : ResetMove s a) : (a.perform s).flg = s.flg := by
  cases h with
  | zeroPlain k hu => rfl
  | zeroRtc r h14 h19 hr => exact writeReg_zero_flg r s
  | readControl hu => rfl
  | domainOn hu => rfl
  | domainOff hu => rfl

/-- The access zeroes the plain word numbered `upc`, if there is one, and no word below it is set
again. -/
theorem ResetMove.zeroedBelow (h : ResetMove s a) (hz : ZeroedBelow s.upc.toNat s) :
    ZeroedBelow (s.upc.toNat + 1) (a.perform s) := by
  intro j hj
  cases h with
  | zeroPlain k hu =>
    change (s.w.set k.val 0#32)[j.val] = 0#32
    rw [Vector.getElem_set]
    split
    · rfl
    · exact hz j (by omega)
  | zeroRtc r h14 h19 hr =>
    have hword := writeReg_rtc_w (by omega) hr 0#32 s
    simpa [Access.perform, hword] using hz j (by omega)
  | readControl hu => exact hz j (by omega)
  | domainOn hu | domainOff hu =>
    change (s.w.set 14 _)[j.val] = 0#32
    rw [Vector.getElem_set_ne _ _ (by omega)]
    exact hz j (by omega)

/-- The write at the index of `RTC_CS` clears the enables, and nothing after it sets one. -/
theorem ResetMove.enablesAt (hw : s.cfg.wf = true) (h : ResetMove s a)
    (hz : EnablesAt s.upc.toNat s) : EnablesAt (s.upc.toNat + 1) (a.perform s) := by
  have := Cfg.wf_rtc hw
  intro hlt
  rw [perform_cfg] at hlt
  cases h with
  | zeroPlain k hu => omega
  | zeroRtc r h14 h19 hr =>
    refine writeReg_zero_ie ?_
    by_cases hc : s.cfg.idxCs < s.upc.toNat + 2
    · exact .inr (hz hc)
    · rw [show 0x10 + (s.upc.toNat - 14) = s.cfg.idxCs by omega, regAt_cs hw] at hr
      exact .inl (Option.some.inj hr).symm
  | readControl hu => exact hz (by omega)
  | domainOn hu => exact hz (by omega)
  | domainOff hu => exact hz (by omega)

/-- Before the ON step only `REG_0E` counts, and it is as it was. -/
theorem controlAt_of_lt {n : Nat} (hn : n < 20) (h : s.reg0E = old) : ControlAt old n s :=
  ⟨fun _ => h, by omega, by omega, by omega, by omega⟩

/-- `REG_0E` changes by the ON and the OFF step alone, each from the word it read
(40_bulk_reset.md R130 a). -/
theorem ResetMove.controlAt (h : ResetMove s a) (hc : ControlAt old s.upc.toNat s) :
    ControlAt old (s.upc.toNat + 1) (a.perform s) := by
  obtain ⟨hold, htOld, hon, htOn, -⟩ := hc
  cases h with
  | zeroPlain k hu =>
    refine controlAt_of_lt (by omega) ?_
    change (s.w.set k.val 0#32)[14] = old
    rw [Vector.getElem_set_ne _ _ (by omega)]
    exact hold (by omega)
  | zeroRtc r h14 h19 hr =>
    have hword := writeReg_rtc_w (by omega) hr 0#32 s
    refine controlAt_of_lt (by omega) ?_
    simp only [Access.perform, State.reg0E, hword]
    exact hold (by omega)
  | readControl hu =>
    exact ⟨fun _ => hold (by omega), fun _ => hold (by omega), fun _ => hon (by omega),
      fun _ => hon (by omega), by omega⟩
  | domainOn hu =>
    refine ⟨by omega, by omega, fun _ => ?_, by omega, by omega⟩
    rw [htOld hu]
    exact Vector.getElem_set_self _
  | domainOff hu =>
    refine ⟨by omega, by omega, by omega, by omega, fun _ => ?_⟩
    rw [htOn hu]
    exact Vector.getElem_set_self _

/-- An access before the last micro-step leaves `Reset` under way. -/
theorem ResetUnderWay.goesOn (hw : s.cfg.wf = true) (hu : ResetUnderWay old s)
    (hn : s.upc.toNat < 23) (h : ResetMove s a) :
    ResetUnderWay old (advance (a.perform s)) := by
  obtain ⟨he, hzero, hie, hcontrol⟩ := resetUnderWay_iff.1 hu
  have hupc : (advance (a.perform s)).upc.toNat = s.upc.toNat + 1 := by
    rw [advance_upc_toNat (i := .reset) (by rw [perform_upc]; exact he.upc_lt), perform_upc]
  rw [resetUnderWay_iff, hupc]
  exact ⟨executing_advance he (by rw [microCount]; omega) a, h.zeroedBelow hzero,
    h.enablesAt hw hie, h.controlAt hcontrol⟩

/-- The last micro-step leaves what R131 says (40_bulk_reset.md R131 a, b, e, f). -/
theorem ResetUnderWay.left (hw : s.cfg.wf = true) (hu : ResetUnderWay old s)
    (hn : s.upc.toNat = 23) :
    ResetLeft old (respond 0#32 (advance (setPlain 15 s.cfg.resetCfg s))) := by
  obtain ⟨-, hzero, hie, -, -, -, -, hoff⟩ := resetUnderWay_iff.1 hu
  have := Cfg.wf_rtc hw
  refine ⟨rfl, rfl, fun k => ?_, Vector.getElem_set_self _, hie (by omega), ?_⟩
  · change (s.w.set 15 _)[k.val] = 0#32
    rw [Vector.getElem_set_ne _ _ (by omega)]
    exact hzero k (by omega)
  · change (s.w.set 15 _)[14] = _
    rw [Vector.getElem_set_ne _ _ (by decide)]
    exact hoff hn

/-- A move that keeps the controller, the plain words and the enables leaves `Reset` under way. -/
theorem ResetUnderWay.of_same (hu : ResetUnderWay old s) (h : SameController s s')
    (hword : s'.w = s.w) (hie : s'.ie = s.ie) : ResetUnderWay old s' := by
  obtain ⟨he, hrest⟩ := resetUnderWay_iff.1 hu
  refine resetUnderWay_iff.2 ⟨he.of_same h, ?_⟩
  simpa only [ZeroedBelow, EnablesAt, ControlAt, State.reg0E, h.upc, h.t, h.cfg, hword, hie]
    using hrest

/-- What a move can do while `Reset` is under way, and that it clears no flag
(40_bulk_reset.md R131). -/
theorem SystemMove.of_resetUnderWay (h : SystemMove inp s s') (hw : s.cfg.wf = true)
    (hu : ResetUnderWay old s) :
    (∀ e, s.flg.has e = true → s'.flg.has e = true)
      ∧ (ResetUnderWay old s' ∨ ResetLeft old s'
        ∨ (inp.move = .hardwareReset ∧ s'.mode = .idle ∧ s'.w = s.w)) := by
  have he : Executing .reset s := hu.1
  rcases h.of_executing he with hx | ⟨hi, rfl⟩ | ⟨hsame, hword, hie, hflg⟩
  · rcases exec_reset_cases hw he hx with ⟨hn, rfl⟩ | ⟨a, hn, ha, rfl⟩
    · exact ⟨fun _ => id, .inr (.inl (hu.left hw hn))⟩
    · exact ⟨fun e hf => by rwa [advance_flg, ha.flg], .inl (hu.goesOn hw hn ha)⟩
  · exact ⟨fun _ => id, .inr (.inr ⟨hi, rfl, rfl⟩)⟩
  · exact ⟨hflg, .inl (hu.of_same hsame hword hie)⟩

/-- Settles O55: acceptance puts `Reset` under way, each of its accesses brings the three parts of
`ResetUnderWay` on by one micro-step, and no other agent touches them. -/
theorem resetUnderEverySchedule : Obligations.ResetUnderEverySchedule := by
  unfold Obligations.ResetUnderEverySchedule
  refine ⟨fun s hw hm => ⟨_, exec_idle hw hm, resetUnderWay_accept hw⟩, fun old s s' hu h => ?_⟩
  obtain ⟨hw, hm⟩ := step_cases h
  have hu0 : ResetUnderWay old (takeInput s).2 := by rw [takeInput_eq]; exact hu
  simpa using hm.of_resetUnderWay (by simpa using hw) hu0

end Sys2Proof.Machine

/-!
PROOF. A word merged into a field of another (41_config_field_ops.md R141): what it reads back, what
it leaves, and that merges into disjoint fields commute.
-/

namespace Sys2Proof

/-- The word `t` with its bits in `m` given by `v`: the shape of all four formulas on `REG_0F`
(41_config_field_ops.md R140 to R144). -/
def mergeBits (m v t : Word) : Word := (t &&& ~~~m) ||| v

/-- A field insert merges the shifted value. -/
theorem insertField_eq_mergeBits (m : Word) (p : Nat) (t a : Word) :
    insertField m p t a = mergeBits m (a <<< p) t := rfl

/-- A set merges ones, a clear zeros. -/
theorem setOrClear_eq_mergeBits (on : Bool) (m t : Word) :
    setOrClear on m t = mergeBits m (if on then m else 0#32) t := by
  cases on
  · simp [setOrClear, mergeBits]
  · ext k
    cases h : m[k] <;> simp [setOrClear, mergeBits, h]

section Merge

variable {m v n u t : Word} (hv : v &&& m = v)

include hv in
/-- A merged word lies in its mask, bit by bit. -/
theorem getElem_of_within {k : Nat} (hk : k < 32) : (v[k] && m[k]) = v[k] := by
  rw [← BitVec.getElem_and, hv]

include hv in
/-- Inside its mask a merge reads back. -/
theorem mergeBits_and_mask : mergeBits m v t &&& m = v := by
  ext k hk
  have hvk := getElem_of_within hv hk
  cases hm : m[k] <;> simp_all [mergeBits]

include hv in
/-- Outside its mask a merge changes nothing. -/
theorem mergeBits_and_not_mask : mergeBits m v t &&& ~~~m = t &&& ~~~m := by
  ext k hk
  have hvk := getElem_of_within hv hk
  cases hm : m[k] <;> simp_all [mergeBits]

include hv in
/-- Merges into disjoint masks commute (41_config_field_ops.md R145 c). -/
theorem mergeBits_comm (hu : u &&& n = u) (hd : m &&& n = 0#32) :
    mergeBits n u (mergeBits m v t) = mergeBits m v (mergeBits n u t) := by
  ext k hk
  have hvk := getElem_of_within hv hk
  have huk := getElem_of_within hu hk
  have hdk : (m[k] && n[k]) = false := by rw [← BitVec.getElem_and, hd, BitVec.getElem_zero]
  cases hm : m[k] <;> cases hn : n[k] <;> simp_all [mergeBits]

end Merge

/-- The `w` low bits. -/
theorem toNat_lowBits {w : Nat} (hw : w ≤ 32) : ((1#32 <<< w) - 1#32).toNat = 2 ^ w - 1 := by
  have hpos := Nat.two_pow_pos w
  have hle : 2 ^ w ≤ 2 ^ 32 := Nat.pow_le_pow_right (by decide) hw
  rw [BitVec.toNat_sub, BitVec.toNat_shiftLeft, BitVec.toNat_ofNat, Nat.shiftLeft_eq]
  omega

/-- A value of `w` bits, shifted into its field, lies in the field's mask. -/
theorem shiftLeft_within_fieldMask {w p : Nat} {a : Word} (ha : a.toNat < 2 ^ w) (hw : w ≤ 32) :
    a <<< p &&& fieldMask w p = a <<< p := by
  have hlow : a &&& ((1#32 <<< w) - 1#32) = a := BitVec.eq_of_toNat_eq <| by
    rw [BitVec.toNat_and, toNat_lowBits hw, Nat.and_two_pow_sub_one_of_lt_two_pow ha]
  rw [fieldMask, ← BitVec.shiftLeft_and_distrib, hlow]

/-- A value that fits its field survives the shift there and back. -/
theorem shiftLeft_ushiftRight_of_fits {w p : Nat} {a : Word} (ha : a.toNat < 2 ^ w)
    (hw : p + w ≤ 32) : (a <<< p) >>> p = a := by
  have hlt : a.toNat * 2 ^ p < 2 ^ 32 := calc
    a.toNat * 2 ^ p < 2 ^ w * 2 ^ p := Nat.mul_lt_mul_of_pos_right ha (Nat.two_pow_pos p)
    _ = 2 ^ (w + p) := (Nat.pow_add 2 w p).symm
    _ ≤ 2 ^ 32 := Nat.pow_le_pow_right (by decide) (by omega)
  apply BitVec.eq_of_toNat_eq
  rw [BitVec.toNat_ushiftRight, BitVec.toNat_shiftLeft, Nat.shiftLeft_eq, Nat.mod_eq_of_lt hlt,
    Nat.shiftRight_eq_div_pow, Nat.mul_div_cancel _ (Nat.two_pow_pos p)]

/-- Bit `i` after a set or clear of bit `p`. -/
theorem getLsbD_setOrClear_bit (p i : Nat) (t : Word) (on : Bool) (hp : p < 32) :
    (setOrClear on (bit p) t).getLsbD i = if i = p then on else t.getLsbD i := by
  by_cases hi : i = p
  · subst hi
    cases on <;> simp [setOrClear, hp]
  · have hb : (bit p).getLsbD i = false := by simp [hi]
    rw [if_neg hi]
    cases on
    · simpa only [setOrClear, Bool.false_eq_true, if_false, BitVec.getLsbD_and, BitVec.getLsbD_not,
        hb, Bool.not_false, Bool.and_true, Bool.and_eq_left_iff_imp, decide_eq_true_eq]
        using BitVec.lt_of_getLsbD
    · simp only [setOrClear, if_true, BitVec.getLsbD_or, hb, Bool.or_false]

/-- Settles O38: the shifted value lies in the mask, so the merge reads back and leaves the rest. -/
theorem fieldInsertLaws : Obligations.FieldInsertLaws := by
  unfold Obligations.FieldInsertLaws
  refine ⟨fun w p t a ha hw => ?_, fun p t on hp => ⟨?_, fun i hi => ?_⟩⟩
  · have hin : a <<< p &&& fieldMask w p = a <<< p := shiftLeft_within_fieldMask ha (by omega)
    rw [insertField_eq_mergeBits, mergeBits_and_mask hin, mergeBits_and_not_mask hin]
    exact ⟨shiftLeft_ushiftRight_of_fits ha hw, rfl⟩
  · rw [getLsbD_setOrClear_bit _ _ _ _ hp, if_pos rfl]
  · rw [getLsbD_setOrClear_bit _ _ _ _ hp, if_neg hi]

end Sys2Proof

/-!
PROOF. The four operations on `REG_0F` (41_config_field_ops.md R140, R142 to R144), each whole: its
word, its acceptance, and the two micro-steps of a read-modify-write.
-/

namespace Sys2Proof.Machine

open Sys2Proof

variable {i : Instr} {s : State}

/-! ### Acceptance (10_state.md R40) -/

/-- A command in range is accepted. -/
theorem accepts_of_precond (hw : s.cfg.wf = true) (hm : s.mode = .idle)
    (hp : precond s.cfg i = true) : Accepts i s := by
  refine ⟨false, ?_⟩
  rw [exec_idle hw hm, accept_of_precond hp, latch, argField_encode, enField_encode]

/-- A command out of range is turned away. -/
theorem turnedAway_of_not_precond (hw : s.cfg.wf = true) (hm : s.mode = .idle)
    (hp : precond s.cfg i = false) : TurnedAway i s :=
  ⟨true, (exec_idle hw hm).trans (congrArg _ (accept_of_not_precond hp))⟩

/-- The range check of `SetClockSource`: the operand is the code of a source
(41_config_field_ops.md R140). -/
theorem precond_setClockSource_iff {c : Cfg} {arg : Word} :
    precond c (.setClockSource arg) = true ↔ ∃ src, arg = c.srcCode src := by
  simp only [precond, Bool.or_eq_true, beq_iff_eq]
  constructor
  · rintro (((h | h) | h) | h)
    · exact ⟨.lsi, h⟩
    · exact ⟨.lse, h⟩
    · exact ⟨.hsi, h⟩
    · exact ⟨.hse, h⟩
  · rintro ⟨src, h⟩
    cases src
    · exact .inl (.inl (.inl h))
    · exact .inl (.inl (.inr h))
    · exact .inl (.inr h)
    · exact .inr h

/-- The range check of `SetCalibration` (41_config_field_ops.md R143). -/
theorem precond_setCalibration_iff {c : Cfg} {arg : Word} :
    precond c (.setCalibration arg) = true ↔ arg.toNat ≤ 255 := decide_eq_true_iff

/-! ### The two micro-steps of a read-modify-write (10_state.md R41, R42) -/

/-- Micro-step 0 reads the register into `T`. -/
theorem exec_modify_read {r : Reg} {v : Word} (hw : s.cfg.wf = true) (hm : s.mode = .busy)
    (h2 : microCount i = 2) (ha : access i s = modifyAccess r v s.upc.toNat) (hu : s.upc = 0#5) :
    exec i s = .next (advance ((Access.read r).perform s)) := by
  have hi : i ≠ .waitForUpdate := by rintro rfl; exact absurd h2 (by decide)
  rw [exec_busy hw hm, ha, hu]
  exact congrArg _ (finish_goesOn hi (by rw [perform_upc, hu, h2]; decide))

/-- Micro-step 1 writes the register and responds. -/
theorem exec_modify_write {r : Reg} {v : Word} (hw : s.cfg.wf = true) (hm : s.mode = .busy)
    (h2 : microCount i = 2) (ha : access i s = modifyAccess r v s.upc.toNat) (hu : s.upc = 1#5) :
    exec i s = .next (respond 0#32 (advance (writeReg r v s))) := by
  have hi : i ≠ .waitForUpdate := by rintro rfl; exact absurd h2 (by decide)
  rw [exec_busy hw hm, ha, hu]
  refine congrArg _ ((finish_last hi (by rw [perform_upc, hu, h2]; decide)).trans ?_)
  rw [answerData_of_microCount_two h2]
  rfl

/-- What the two micro-steps of an operation on `REG_0F` do when the second writes `v`: its read,
and its write with the response `(OK, 0)`. -/
def ModifiesConfig (i : Instr) (v : Word) (s : State) : Prop :=
  (s.mode = .busy → s.upc = 0#5 → exec i s = .next { s with t := s.w[0x0F], upc := 1#5 })
    ∧ (s.mode = .busy → s.upc = 1#5 → ∃ u o, exec i s = .next { s with
      w := s.w.set 0x0F v, mode := .idle, resp := ⟨0#2, 0#32⟩, upc := u, respOutstanding := o })

/-- An operation whose accesses modify `REG_0F` does so. -/
theorem modifiesConfig {v : Word} (hw : s.cfg.wf = true) (h2 : microCount i = 2)
    (ha : access i s = modifyAccess (.plain 15) v s.upc.toNat) : ModifiesConfig i v s := by
  refine ⟨fun hm hu => ?_, fun hm hu => ⟨_, _, exec_modify_write hw hm h2 ha hu⟩⟩
  rw [exec_modify_read hw hm h2 ha hu, advance, perform_upc, hu]
  rfl

/-- Settles O7: accepted by its range check, it merges the operand into the source field. -/
theorem setClockSourceOperation : Obligations.SetClockSourceOperation := by
  unfold Obligations.SetClockSourceOperation
  refine ⟨fun arg => packWord_eq_append (op := 1#4) (en := false) arg (by decide),
    fun arg s hw => ⟨fun hm hsrc => ?_, fun hm hno => ?_,
      modifiesConfig (i := .setClockSource arg) hw rfl rfl⟩⟩
  · exact accepts_of_precond hw hm (precond_setClockSource_iff.2 hsrc)
  · refine turnedAway_of_not_precond hw hm (Bool.eq_false_iff.2 fun hp => ?_)
    obtain ⟨src, hsrc⟩ := precond_setClockSource_iff.1 hp
    exact hno src hsrc

/-- Settles O8: always accepted, it sets or clears the enable bit in the word it read. -/
theorem setEnabledOperation : Obligations.SetEnabledOperation := by
  unfold Obligations.SetEnabledOperation
  exact ⟨by decide, by decide, fun en s hw => ⟨fun hm => accepts_of_precond hw hm rfl,
    modifiesConfig (i := .setEnabled en) hw rfl rfl⟩⟩

/-- Settles O9: accepted by its range check, it merges the operand into the calibration field. -/
theorem setCalibrationOperation : Obligations.SetCalibrationOperation := by
  unfold Obligations.SetCalibrationOperation
  refine ⟨fun arg => packWord_eq_append (op := 3#4) (en := false) arg (by decide),
    fun arg s hw => ⟨fun hm hle => ?_, fun hm hgt => ?_,
      modifiesConfig (i := .setCalibration arg) hw rfl rfl⟩⟩
  · exact accepts_of_precond hw hm (precond_setCalibration_iff.2 hle)
  · refine turnedAway_of_not_precond hw hm (Bool.eq_false_iff.2 fun hp => ?_)
    exact absurd (precond_setCalibration_iff.1 hp) (Nat.not_le_of_gt hgt)

/-- Settles O10: always accepted, it sets or clears the RTC-reset bit in the word it read. -/
theorem setResetOperation : Obligations.SetResetOperation := by
  unfold Obligations.SetResetOperation
  exact ⟨by decide, by decide, fun en s hw => ⟨fun hm => accepts_of_precond hw hm rfl,
    modifiesConfig (i := .setReset en) hw rfl rfl⟩⟩

end Sys2Proof.Machine

/-!
PROOF. The operations on `REG_0F` run with no other agent between: one leaves the formula of its
rule and nothing else, and two on different fields commute (41_config_field_ops.md R145).
-/

namespace Sys2Proof.Machine

open Sys2Proof

variable {i j : Instr} {s s' : State} {c : Cfg}

/-! ### One operation alone -/

theorem runAlone_succ {n : Nat} (h : exec i s = .next s') :
    runAlone i (n + 1) s = runAlone i n s' := by
  rw [runAlone, h]

/-- Settles O51: acceptance, the read, and the write of the formula on the word read. -/
theorem configOperationAlone : Obligations.ConfigOperationAlone := by
  unfold Obligations.ConfigOperationAlone
  intro i s new hw hm hp hr
  have he : Executing i (latch (encode i) s) := executing_latch hp
  obtain ⟨h2, v, ha, -⟩ := exists_configWord he hr
  have hread := exec_modify_read (by exact hw) he.busy h2 ha rfl
  have he1 := executing_advance he (by rw [h2, latch_upc]; decide) (.read (.plain 15))
  obtain ⟨-, u, ha1, hu⟩ := exists_configWord he1 hr
  have hwrite := exec_modify_write (by exact hw) he1.busy h2 ha1 rfl
  rw [runAlone_succ ((exec_idle hw hm).trans (congrArg _ (accept_of_precond hp))),
    runAlone_succ hread, runAlone_succ hwrite, runAlone, hu rfl]
  simp only [latch, argField_encode, enField_encode, hm]
  rfl

/-! ### Two operations on different fields -/

/-- The field of `REG_0F` that a configuration operation modifies (41_config_field_ops.md
R145 c). -/
def configMask (c : Cfg) : Instr → Word
  | .setClockSource _ => c.srcMask
  | .setEnabled _ => c.enMask
  | .setCalibration _ => c.calMask
  | .setReset _ => c.rstMask
  | _ => 0#32

/-- What a configuration operation puts in its field. -/
def configBits (c : Cfg) : Instr → Word
  | .setClockSource arg => arg <<< c.srcLsb
  | .setEnabled en => if en then c.enMask else 0#32
  | .setCalibration arg => arg <<< c.calLsb
  | .setReset en => if en then c.rstMask else 0#32
  | _ => 0#32

/-- The formula of each configuration operation is a merge into its field. -/
theorem configResult_eq_mergeBits (hi : IsConfigOp i) (old : Word) :
    configResult c old i = some (mergeBits (configMask c i) (configBits c i) old) := by
  obtain ⟨arg, rfl⟩ | ⟨en, rfl⟩ | ⟨arg, rfl⟩ | ⟨en, rfl⟩ := hi
  · rfl
  · exact congrArg some (setOrClear_eq_mergeBits en c.enMask old)
  · rfl
  · exact congrArg some (setOrClear_eq_mergeBits en c.rstMask old)

/-- The calibration field has eight bits (00_scope.md R6). -/
theorem calMask_eq_fieldMask (c : Cfg) : c.calMask = fieldMask 8 c.calLsb := by
  have hlow : (1#32 <<< 8) - 1#32 = 0xFF#32 := by decide
  rw [Cfg.calMask, fieldMask, hlow]

/-- A configuration operation in range puts nothing outside its field: the codes fit the source
field (00_scope.md R7 f), and the calibration has eight bits. -/
theorem configBits_within (hw : c.wf = true) (hi : IsConfigOp i) (hp : precond c i = true) :
    configBits c i &&& configMask c i = configBits c i := by
  obtain ⟨-, hsrc, -⟩ := Cfg.wf_widths hw
  obtain ⟨-, -, -, -, -, hcodes, -⟩ := Cfg.wf_iff.1 hw
  have hset (en : Bool) (m : Word) : (if en then m else 0#32) &&& m = if en then m else 0#32 := by
    cases en <;> simp
  obtain ⟨arg, rfl⟩ | ⟨en, rfl⟩ | ⟨arg, rfl⟩ | ⟨en, rfl⟩ := hi
  · obtain ⟨src, rfl⟩ := precond_setClockSource_iff.1 hp
    obtain ⟨-, hfit⟩ := Cfg.wfCodes_iff.1 hcodes
    exact shiftLeft_within_fieldMask (hfit src) (by omega)
  · exact hset en _
  · have hfit : arg.toNat < 2 ^ 8 := Nat.lt_succ_of_le (precond_setCalibration_iff.1 hp)
    rw [configBits, configMask, calMask_eq_fieldMask]
    exact shiftLeft_within_fieldMask hfit (by decide)
  · exact hset en _

/-- Different configuration operations have disjoint fields (00_scope.md R7 d). -/
theorem configMask_disjoint (hw : c.wf = true) (hi : IsConfigOp i) (hj : IsConfigOp j)
    (hne : opcodeOf i ≠ opcodeOf j) : configMask c i &&& configMask c j = 0#32 := by
  obtain ⟨-, -, -, hdisjoint, -, -, -⟩ := Cfg.wf_iff.1 hw
  obtain ⟨hsc, hse, hsr, hce, hcr, her⟩ := Cfg.wfDisjoint_iff.1 hdisjoint
  have hswap {m n : Word} (h : m &&& n = 0#32) : n &&& m = 0#32 := (BitVec.and_comm n m).trans h
  obtain ⟨_, rfl⟩ | ⟨_, rfl⟩ | ⟨_, rfl⟩ | ⟨_, rfl⟩ := hi
  · obtain ⟨_, rfl⟩ | ⟨_, rfl⟩ | ⟨_, rfl⟩ | ⟨_, rfl⟩ := hj
    exacts [absurd rfl hne, hse, hsc, hsr]
  · obtain ⟨_, rfl⟩ | ⟨_, rfl⟩ | ⟨_, rfl⟩ | ⟨_, rfl⟩ := hj
    exacts [hswap hse, absurd rfl hne, hswap hce, her]
  · obtain ⟨_, rfl⟩ | ⟨_, rfl⟩ | ⟨_, rfl⟩ | ⟨_, rfl⟩ := hj
    exacts [hswap hsc, hce, absurd rfl hne, hcr]
  · obtain ⟨_, rfl⟩ | ⟨_, rfl⟩ | ⟨_, rfl⟩ | ⟨_, rfl⟩ := hj
    exacts [hswap hsr, hswap her, hswap hcr, absurd rfl hne]

/-- A configuration operation run alone from an idle controller ends idle, its field merged into
`REG_0F`. -/
theorem exists_runAlone_config (hw : s.cfg.wf = true) (hm : s.mode = .idle) (hi : IsConfigOp i)
    (hp : precond s.cfg i = true) : ∃ s', runAlone i 3 s = .next s' ∧ s'.cfg = s.cfg
      ∧ s'.mode = .idle
      ∧ s'.w = s.w.set 0x0F (mergeBits (configMask s.cfg i) (configBits s.cfg i) s.reg0F) :=
  ⟨_, configOperationAlone i s _ hw hm hp (configResult_eq_mergeBits hi _), rfl, hm, rfl⟩

/-- Two configuration operations run one after the other end idle, both fields merged into
`REG_0F`. -/
theorem exists_runAlone_config_pair (hw : s.cfg.wf = true) (hm : s.mode = .idle)
    (hi : IsConfigOp i) (hj : IsConfigOp j) (hpi : precond s.cfg i = true)
    (hpj : precond s.cfg j = true) :
    ∃ si sij, runAlone i 3 s = .next si ∧ runAlone j 3 si = .next sij ∧ sij.mode = .idle
      ∧ sij.w = s.w.set 0x0F (mergeBits (configMask s.cfg j) (configBits s.cfg j)
        (mergeBits (configMask s.cfg i) (configBits s.cfg i) s.reg0F)) := by
  obtain ⟨si, hruni, hci, hmi, hwi⟩ := exists_runAlone_config hw hm hi hpi
  rw [← hci] at hw hpj
  obtain ⟨sij, hrunj, -, hmj, hwj⟩ := exists_runAlone_config hw hmi hj hpj
  refine ⟨si, sij, hruni, hrunj, hmj, ?_⟩
  rw [hwj, State.reg0F, hwi, hci, Vector.getElem_set_self, Vector.set_set]

/-- Settles O39: in either order both fields are merged, and they are disjoint. -/
theorem configOperationsCommute : Obligations.ConfigOperationsCommute := by
  unfold Obligations.ConfigOperationsCommute
  intro i j s hw hm hi hj hne hpi hpj
  obtain ⟨si, sij, hruni, hrunij, hmij, hwij⟩ := exists_runAlone_config_pair hw hm hi hj hpi hpj
  obtain ⟨sj, sji, hrunj, hrunji, hmji, hwji⟩ := exists_runAlone_config_pair hw hm hj hi hpj hpi
  refine ⟨si, sij, sj, sji, hruni, hrunij, hrunj, hrunji, hmij, hmji, ?_⟩
  rw [hwij, hwji, mergeBits_comm (configBits_within hw hi hpi) (configBits_within hw hj hpj)
    (configMask_disjoint hw hi hj hne)]

end Sys2Proof.Machine

/-!
PROOF. The five operations on the RTC value registers (42_rtc_value_ops.md R160 to R164), each
whole: its word, its acceptance, and the one bus access with which it responds.
-/

namespace Sys2Proof.Machine

open Sys2Proof

variable {i : Instr} {s : State}

/-- The range check of `SetPrescaler` (42_rtc_value_ops.md R164). -/
theorem precond_setPrescaler_iff {c : Cfg} {arg : Word} :
    precond c (.setPrescaler arg) = true ↔ arg.toNat ≤ 0xFFFFF := decide_eq_true_iff

/-- An operation of one micro-step, the poll aside, makes its access and responds. -/
theorem exec_only {a : Access} (hw : s.cfg.wf = true) (hm : s.mode = .busy)
    (hi : i ≠ .waitForUpdate) (h1 : microCount i = 1)
    (ha : access i s = onlyAccess a s.upc.toNat) (hu : s.upc = 0#5) :
    exec i s = .next (respond (answerData i (a.perform s)) (advance (a.perform s))) := by
  rw [exec_busy hw hm, ha, hu]
  exact congrArg _ (finish_last hi (by rw [perform_upc, hu, h1]; rfl))

/-! ### The getters -/

/-- `GetCounter` answers what it reads from `RTC_CNT`. -/
theorem exec_getCounter (hw : s.cfg.wf = true) (hm : s.mode = .busy) (hu : s.upc = 0#5) :
    exec .getCounter s = .next (respond (readSynced .cnt s).1
      (advance (setT (readSynced .cnt s).1 (readSynced .cnt s).2))) :=
  exec_only (i := .getCounter) hw hm (by nofun) rfl rfl hu

/-- `GetDivider` answers what it reads from `RTC_DIV`. -/
theorem exec_getDivider (hw : s.cfg.wf = true) (hm : s.mode = .busy) (hu : s.upc = 0#5) :
    exec .getDivider s = .next (respond s.div (advance (setT s.div s))) :=
  exec_only (i := .getDivider) hw hm (by nofun) rfl rfl hu

/-- Settles O12: always accepted, it answers the read of the counter, by the slot and by
`PENDING_READ`. -/
theorem getCounterOperation : Obligations.GetCounterOperation := by
  unfold Obligations.GetCounterOperation
  refine ⟨by decide, fun s hw => ⟨fun hm => accepts_of_precond hw hm rfl, fun hm hu => ?_⟩⟩
  rw [exec_getCounter hw hm hu]
  refine ⟨fun h => ?_, fun v h hr => ?_, fun v h hr => ?_, fun v h hr => ?_⟩
  · rw [readSynced_committed h]
    exact ⟨_, _, rfl⟩
  · obtain ⟨hold, -, -⟩ := readSynced_pending h
    rw [hold hr]
    exact ⟨_, _, rfl⟩
  · obtain ⟨-, hnew, -⟩ := readSynced_pending h
    rw [hnew hr]
    exact ⟨_, _, rfl⟩
  · obtain ⟨-, -, heither⟩ := readSynced_pending h
    rw [heither hr]
    exact ⟨_, _, _, _, (ite_eq_or_eq _ v s.cnt).symm, rfl⟩

/-- Settles O15: always accepted, it answers the divider, and its read looks at no slot. -/
theorem getDividerOperation : Obligations.GetDividerOperation := by
  unfold Obligations.GetDividerOperation
  exact ⟨by decide, fun s hw => ⟨fun hm => accepts_of_precond hw hm rfl,
    fun hm hu => ⟨_, _, exec_getDivider hw hm hu⟩⟩⟩

/-! ### The setters -/

/-- What the micro-step of a setter of the synchronized register `x` does: it puts the operand into
the empty slot or is the protocol violation, and responds `(OK, 0)` either way. -/
def SetsSynced (i : Instr) (x : Synced) (s : State) : Prop :=
  s.mode = .busy → s.upc = 0#5 →
    (s.pending = none → ∃ u o, exec i s = .next { s with
      pending := some ⟨x, s.a⟩, mode := .idle, resp := ⟨0#2, 0#32⟩, upc := u,
      respOutstanding := o })
    ∧ (s.pending ≠ none → ∃ c1 c2 c3 p f u o, exec i s = .next { s with
      viol := true, cnt := c1, alrm := c2, prl := c3, pending := some p, fresh := f,
      mode := .idle, resp := ⟨0#2, 0#32⟩, upc := u, respOutstanding := o })

/-- An operation whose only access writes `A` to `x`, and which answers no data, sets `x`. -/
theorem setsSynced {x : Synced} (hw : s.cfg.wf = true) (hi : i ≠ .waitForUpdate)
    (h1 : microCount i = 1) (hd : ∀ u, answerData i u = 0#32)
    (ha : access i s = onlyAccess (.write (.synced x) s.a) s.upc.toNat) : SetsSynced i x s := by
  intro hm hu
  have hexec : exec i s = .next (respond 0#32 (advance (writeSynced x s.a s))) :=
    (exec_only hw hm hi h1 ha hu).trans (by rw [hd]; rfl)
  rw [hexec]
  refine ⟨fun hp => ?_, fun hp => ?_⟩
  · rw [writeSynced_none hp]
    exact ⟨_, _, rfl⟩
  · rw [writeSynced_some hp]
    exact ⟨_, _, _, _, _, _, _, rfl⟩

/-- Settles O13: always accepted, it sets the counter. -/
theorem setCounterOperation : Obligations.SetCounterOperation := by
  unfold Obligations.SetCounterOperation
  exact ⟨fun arg => packWord_eq_append (op := 7#4) (en := false) arg (by decide),
    fun arg s hw => ⟨fun hm => accepts_of_precond hw hm rfl,
      setsSynced (i := .setCounter arg) hw (by nofun) rfl (fun _ => rfl) rfl⟩⟩

/-- Settles O14: always accepted, it sets the alarm. -/
theorem setAlarmOperation : Obligations.SetAlarmOperation := by
  unfold Obligations.SetAlarmOperation
  exact ⟨fun arg => packWord_eq_append (op := 8#4) (en := false) arg (by decide),
    fun arg s hw => ⟨fun hm => accepts_of_precond hw hm rfl,
      setsSynced (i := .setAlarm arg) hw (by nofun) rfl (fun _ => rfl) rfl⟩⟩

/-- Settles O16: accepted by its range check, which looks at no slot, it sets the reload value. -/
theorem setPrescalerOperation : Obligations.SetPrescalerOperation := by
  unfold Obligations.SetPrescalerOperation
  refine ⟨fun arg => packWord_eq_append (op := 0xA#4) (en := false) arg (by decide),
    fun arg s hw => ⟨fun hm hle => ?_, fun hm hgt => ?_,
      setsSynced (i := .setPrescaler arg) hw (by nofun) rfl (fun _ => rfl) rfl⟩⟩
  · exact accepts_of_precond hw hm (precond_setPrescaler_iff.2 hle)
  · refine turnedAway_of_not_precond hw hm (Bool.eq_false_iff.2 fun hp => ?_)
    exact absurd (precond_setPrescaler_iff.1 hp) (Nat.not_le_of_gt hgt)

end Sys2Proof.Machine

/-!
PROOF. The operations on `RTC_CS` (43_sync_status_ops.md R180 to R183), each whole: its word, its
acceptance and its micro-steps; the two that write `RTC_CS` run with no other agent between; and the
poll that hangs while the RTC clock stands still.
-/

namespace Sys2Proof.Machine

open Sys2Proof

variable {i : Instr} {s s' : State} {inp : Input} {p : Pending} {b : Bool} {r : Response}

/-! ### The poll without a clock (60_exceptions.md R204) -/

/-- A move that leaves a command under way posts no response (10_state.md R42). -/
theorem SystemMove.resp_of_busy (h : SystemMove inp s s') (hw : s.cfg.wf = true)
    (he : Executing i s) (hb : s'.mode = .busy) : s'.resp = s.resp := by
  rcases h.of_executing he with hx | ⟨-, rfl⟩ | ⟨hsame, -⟩
  · obtain ⟨u, hu, hend⟩ := completesAtLastMicroStep i s hw he
    obtain rfl : s' = u := Host.Outcome.next.inj (hx.symm.trans hu)
    split at hend
    · obtain ⟨hidle, -⟩ := hend
      exact absurd (hidle.symm.trans hb) (by decide)
    · obtain ⟨-, hresp, -⟩ := hend
      exact hresp
  · exact absurd hb (by simp)
  · exact hsame.resp

theorem Polling.wf {slot : Option Pending} (h : Polling slot b s) : s.cfg.wf = true := h.1

theorem Polling.executing {slot : Option Pending} (h : Polling slot b s) :
    Executing .waitForUpdate s := h.2.1

/-- `WaitForUpdate` is under way behind the write `p`, and the last response is still `r`. -/
def Hanging (p : Pending) (b : Bool) (r : Response) (s : State) : Prop :=
  Polling (some p) b s ∧ s.resp = r

theorem Hanging.inv (h : Hanging p b r s) : Inv s := h.1.inv

theorem ignoresSchedule_hanging : IgnoresSchedule (Hanging p b r) := fun _ _ h => h

/-- No move but the hardware reset ends the hanging while the clock stands still. -/
theorem Hanging.hangs (hH : Hanging p b r s) (h : SystemMove inp s s')
    (hclk : inp.clk = false) (hr : inp.move ≠ .hardwareReset) : Hanging p b r s' := by
  obtain ⟨hP, hresp⟩ := hH
  have hP' : Polling (some p) b s' := hP.hangs h hclk hr
  exact ⟨hP', (h.resp_of_busy hP.wf hP.executing hP'.executing.busy).trans hresp⟩

/-- Settles O56: every move of such a schedule leaves the poll hanging. -/
theorem pollHangsWithoutClock : Obligations.PollHangsWithoutClock := by
  unfold Obligations.PollHangsWithoutClock
  intro ins s p hw he hp hclk hreset
  have hhangs : Leads ins (Hanging p s.viol s.resp) (Hanging p s.viol s.resp) :=
    .keeps (fun _ => Hanging.inv) ignoresSchedule_hanging fun inp hin _ _ hH h =>
      hH.hangs h (hclk inp hin) (hreset inp hin)
  obtain ⟨s', hrun, hP, hresp⟩ := hhangs.runSchedule ⟨⟨hw, he, hp, rfl⟩, rfl⟩
  exact ⟨s', hrun, hP.executing, hP.pending_eq, hresp⟩

/-! ### What the two read-modify-writes of `RTC_CS` write -/

/-- Micro-step 0 of an operation that modifies `RTC_CS` reads it into `T`. -/
theorem exec_status_read {v : Word} (hw : s.cfg.wf = true) (hm : s.mode = .busy)
    (h2 : microCount i = 2) (ha : access i s = modifyAccess .cs v s.upc.toNat)
    (hu : s.upc = 0#5) : exec i s = .next { s with t := readCs s, upc := 1#5 } := by
  rw [exec_modify_read hw hm h2 ha hu, advance, perform_upc, hu]
  rfl

/-- The word of `SetInterrupts` gives the enables of `S` the operand's value, the others the value
read, and clears no flag (43_sync_status_ops.md R180). -/
theorem writeCs_interruptsWord (hw : s.cfg.wf = true) (set : Events) (on : Bool) (t : Word) :
    writeCs (interruptsWord s.cfg set on t) s = { s with
      ie := ⟨if set.ow then on else t.getLsbD s.cfg.ieOw,
        if set.alr then on else t.getLsbD s.cfg.ieAlr,
        if set.sec then on else t.getLsbD s.cfg.ieSec⟩ } := by
  have hflg : s.flg.minus Events.none = s.flg := Events.ext_has fun e => by simp
  rw [writeCs, clearedBy_interruptsWord hw, hflg]
  congr 1
  refine Events.ext_has fun e => ?_
  rw [has_enabledBy, interruptsWord_enableBit hw]
  cases e <;> rfl

/-- The word of `ClearFlags` clears the flags of `S` and gives every enable the value read
(43_sync_status_ops.md R183). -/
theorem writeCs_clearWord (hw : s.cfg.wf = true) (set : Events) (t : Word) :
    writeCs (clearWord s.cfg set t) s
      = { s with flg := s.flg.minus set, ie := enabledBy s.cfg t } := by
  rw [writeCs, clearedBy_clearWord hw, enabledBy_clearWord hw]

/-- Settles O11: always accepted, it writes the enables of its word, which clears no flag. -/
theorem setInterruptsOperation : Obligations.SetInterruptsOperation := by
  unfold Obligations.SetInterruptsOperation
  refine ⟨fun set => packWord_eq_append (op := 5#4) (en := false) set.toArg (by decide),
    fun set => packWord_eq_append (op := 5#4) (en := true) set.toArg (by decide),
    fun set en s hw => ⟨fun hm => accepts_of_precond hw hm rfl,
      fun hm hu => exec_status_read (i := .setInterrupts set en) hw hm rfl rfl hu,
      fun ha hm hu => ?_⟩⟩
  have hset : Events.ofArg s.a = set := by rw [ha, Events.ofArg_toArg]
  rw [exec_modify_write (i := .setInterrupts set en) hw hm rfl rfl hu, writeReg, hset,
    writeCs_interruptsWord hw]
  exact ⟨_, _, rfl⟩

/-- Settles O19: always accepted, it clears the flags of its word, which holds the enables read. -/
theorem clearFlagsOperation : Obligations.ClearFlagsOperation := by
  unfold Obligations.ClearFlagsOperation
  refine ⟨fun set => packWord_eq_append (op := 0xD#4) (en := false) set.toArg (by decide),
    fun set s hw => ⟨fun hm => accepts_of_precond hw hm rfl,
      fun hm hu => exec_status_read (i := .clearFlags set) hw hm rfl rfl hu,
      fun ha hm hu => ?_⟩⟩
  have hset : Events.ofArg s.a = set := by rw [ha, Events.ofArg_toArg]
  rw [exec_modify_write (i := .clearFlags set) hw hm rfl rfl hu, writeReg, hset,
    writeCs_clearWord hw]
  exact ⟨_, _, rfl⟩

/-! ### The operations that only read `RTC_CS` -/

/-- What `GetFlag` answers for WEC: no write is pending, at either level of the bit
(10_state.md R29). -/
theorem flagIn_readCs_wec (hw : s.cfg.wf = true) :
    flagIn s.cfg (readCs s) .wec = s.pending.isNone := asserted_readCs hw

/-- What `GetFlag` answers for an event: its flag. -/
theorem flagIn_readCs_event (hw : s.cfg.wf = true) (e : Event) :
    flagIn s.cfg (readCs s) (.event e) = s.flg.has e := readCs_flagBit hw e

/-- `GetFlag` answers the flag that `A` selects. -/
theorem exec_getFlag {f : Flag} (hw : s.cfg.wf = true) (hm : s.mode = .busy) (hu : s.upc = 0#5)
    (ha : s.a = f.toArg) : exec (.getFlag f) s = .next (respond
      (if flagIn s.cfg (readCs s) f then 1#32 else 0#32) (advance (setT (readCs s) s))) := by
  rw [exec_only (i := .getFlag f) hw hm nofun rfl rfl hu, answerData, perform_a, ha,
    Flag.ofArg_toArg]
  rfl

/-- Settles O18: always accepted, it answers the selected bit of its read of `RTC_CS`. -/
theorem getFlagOperation : Obligations.GetFlagOperation := by
  unfold Obligations.GetFlagOperation
  refine ⟨by decide, by decide, by decide, by decide, fun f s hw =>
    ⟨fun hm => accepts_of_precond hw hm rfl, fun ha hm hu => ?_⟩⟩
  rw [exec_getFlag hw hm hu ha]
  cases f with
  | wec =>
    rw [flagIn_readCs_wec hw]
    exact ⟨_, _, rfl⟩
  | event e =>
    rw [flagIn_readCs_event hw]
    cases e <;> exact ⟨_, _, rfl⟩

/-- Settles O17: always accepted, its read completes it exactly when no write is pending. -/
theorem waitForUpdateOperation : Obligations.WaitForUpdateOperation := by
  unfold Obligations.WaitForUpdateOperation
  refine ⟨by decide, fun s hw => ⟨fun hm => accepts_of_precond hw hm rfl, fun hm hu => ?_⟩⟩
  have hpoll : exec .waitForUpdate s = .next (pollDecide (setT (readCs s) s)) := by
    rw [exec_busy hw hm, access, hu]
    exact congrArg _ (finish_wait _)
  rw [hpoll]
  refine ⟨fun hp => ?_, fun hp => ?_⟩
  · rw [poll_completes hw hp]
    exact ⟨_, _, rfl⟩
  · rw [poll_stays hw hp]
    rfl

/-! ### A read-modify-write of `RTC_CS` alone -/

/-- `SetInterrupts` and `ClearFlags` have no precondition (43_sync_status_ops.md R180, R183). -/
theorem precond_of_enablesResult {c : Cfg} {old new : Events}
    (hr : enablesResult old i = some new) : precond c i = true := by
  cases i
  case setInterrupts | clearFlags => rfl
  all_goals exact nomatch hr

/-- Settles O52: acceptance, the read, and the write of a word with the enables of the rule, which
clears the operation's own flags. -/
theorem statusOperationAlone : Obligations.StatusOperationAlone := by
  unfold Obligations.StatusOperationAlone
  intro i s new hw hm hr
  have hp : precond s.cfg i = true := precond_of_enablesResult hr
  have he : Executing i (latch (encode i) s) := executing_latch hp
  obtain ⟨h2, v, ha, -, -⟩ := exists_statusWord (by exact hw) he hr
  have hread := exec_modify_read (by exact hw) he.busy h2 ha rfl
  have he1 := executing_advance he (by rw [h2, latch_upc]; decide) (.read .cs)
  obtain ⟨-, u, ha1, hie, hflg⟩ := exists_statusWord (by exact hw) he1 hr
  have hwrite := exec_modify_write (by exact hw) he1.busy h2 ha1 rfl
  rw [runAlone_succ ((exec_idle hw hm).trans (congrArg _ (accept_of_precond hp))),
    runAlone_succ hread, runAlone_succ hwrite, runAlone, writeReg, writeCs, hflg,
    hie (enabledBy_readCs (by exact hw))]
  simp only [latch, argField_encode, enField_encode, hm]
  rfl

end Sys2Proof.Machine

/-!
PROOF. The range checks (60_exceptions.md R201): which commands fail the test made at acceptance.
-/

namespace Sys2Proof.Machine

open Sys2Proof

/-- The commands out of range: three operations have a check, and no other can fail
(60_exceptions.md R201). -/
theorem precond_eq_false_iff {c : Cfg} {i : Instr} : precond c i = false
    ↔ (∃ arg, i = .setClockSource arg ∧ ∀ src, arg ≠ c.srcCode src)
      ∨ (∃ arg, i = .setCalibration arg ∧ arg.toNat > 255)
      ∨ ∃ arg, i = .setPrescaler arg ∧ arg.toNat > 0xFFFFF := by
  rw [← Bool.not_eq_true]
  constructor
  · intro hp
    cases i
    case setClockSource arg =>
      exact .inl ⟨arg, rfl, not_exists.1 (mt precond_setClockSource_iff.2 hp)⟩
    case setCalibration arg =>
      exact .inr (.inl ⟨arg, rfl, Nat.lt_of_not_le (mt precond_setCalibration_iff.2 hp)⟩)
    case setPrescaler arg =>
      exact .inr (.inr ⟨arg, rfl, Nat.lt_of_not_le (mt precond_setPrescaler_iff.2 hp)⟩)
    all_goals exact absurd rfl hp
  · rintro (⟨arg, rfl, hno⟩ | ⟨arg, rfl, hgt⟩ | ⟨arg, rfl, hgt⟩)
    · exact mt precond_setClockSource_iff.1 (not_exists.2 hno)
    · exact mt precond_setCalibration_iff.1 (Nat.not_le_of_gt hgt)
    · exact mt precond_setPrescaler_iff.1 (Nat.not_le_of_gt hgt)

/-- Settles O22: an idle controller turns away exactly the commands out of range. -/
theorem rangeChecks : Obligations.RangeChecks := by
  unfold Obligations.RangeChecks
  intro i s hw hm
  rw [← precond_eq_false_iff, Bool.not_eq_false]
  exact ⟨turnedAway_of_not_precond hw hm, accepts_of_precond hw hm⟩

end Sys2Proof.Machine

/-!
PROOF. The resets (70_reset_and_hazards.md): the hardware reset as a step of the system, and the
cold start of the backup domain.
-/

namespace Sys2Proof.Machine

open Sys2Proof

/-- Settles O25: the turn of the hardware reset draws the latches and clears the outstanding
response, and it keeps the register block (R230). -/
theorem hardwareResetStep : Obligations.HardwareResetStep := by
  unfold Obligations.HardwareResetStep
  intro s clk rest hw hin
  have hstep : step s = .next (hardwareReset { s with inputs := rest }) := step_cons hw hin
  exact ⟨_, _, _, _, _, _, _, hstep⟩

/-- A cold start leaves the controller as a hardware reset does (R231). -/
theorem sameController_coldStart (s : State) : SameController (hardwareReset s) (coldStart s) := by
  constructor <;> rfl

/-- Settles O26: the controller is that of the hardware reset, with no response outstanding; the
mark is 0, and the configuration and the lists stay. -/
theorem coldStartClearsViolation : Obligations.ColdStartClearsViolation := by
  unfold Obligations.ColdStartClearsViolation
  intro s
  have hsame := sameController_coldStart s
  exact ⟨hsame.mode.trans (hardwareReset_mode s), rfl, rfl,
    hsame.cfg.trans (hardwareReset_cfg s), hsame.program.trans (hardwareReset_program s), rfl⟩

end Sys2Proof.Machine
